-- ==== Sys2Proof/Word.lean ====
section
/-!
DEFINITION. The words of the block (00_scope.md section 6, 30_encoding.md R91, R92): one bit, the
12-bit command word, the 8-bit line identifier, a message byte, and the level of every line at once.
-/

namespace Sys2Proof

/-- One bit; `false` is 0 and `true` is 1 (00_scope.md section 6). -/
abbrev Bit := Bool

/-- The command word of format C, 12 bits (30_encoding.md R91). -/
abbrev CommandWord := BitVec 12

/-- The identifier of an input line, `INPUT_ID_W = 8` bits (00_scope.md R12). -/
abbrev LineId := BitVec 8

/-- One byte of the message (00_scope.md R8). -/
abbrev Byte := BitVec 8

/-- What the environment presents at one T1: bit `id` is the value `LINE(id)` would return
(00_scope.md R17; entry 10). -/
abbrev LineLevels := BitVec 256

/-- What arrives on a port: a tick event with its payload bit on the sampler port (R92), or a
command word on the command port (R91). An operation on one port never appears on the other (R90). -/
inductive PortWord where
  | event (d : Bit)
  | command (w : CommandWord)
  deriving DecidableEq, Repr

end Sys2Proof
end

