-- ==== Sys2Proof/Syntax.lean ====
section
/-!
DEFINITION. The nine operations of the block, one constructor per row of spec/opcode_table.json
(30_encoding.md R95). Operands have exactly the width the encoding gives them (R93).
-/

namespace Sys2Proof

/-- The operations (R95). -/
inductive Instr where
  /-- `TICK d`, sampler port; `d` is `LINE(input_sel)` at sub-step T1 (R120). -/
  | tick (d : Bit)
  /-- `SB.SETSRC id` (R121). -/
  | setsrc (id : LineId)
  /-- `SB.AVAIL` (R122). -/
  | avail
  /-- `SB.DRAIN` (R123). -/
  | drain
  /-- `SB.RESET` (R124). -/
  | sbReset
  /-- `DM.SAMPLE s` (R150). -/
  | sample (b : Bit)
  /-- `DM.RESET` (R164). -/
  | dmReset
  /-- `DM.BITS` (R165). -/
  | bits
  /-- `DM.MSGB k` (R166). -/
  | msgb (k : BitVec 4)
  deriving DecidableEq, Repr

end Sys2Proof
end

