-- ==== Sys2Proof/Config.lean ====
section
/-!
DEFINITION. The configuration record `Cfg` (00_scope.md R6 to R15), the constants of the source, and
the free values of the model: constants without a body, of which nothing can be proved.
-/

namespace Sys2Proof

/-- The open parameters of the block, fixed before reset is released and constant afterwards
(00_scope.md R15, 10_state.md R34). -/
structure Cfg where
  /-- `PTR_W`: `CAPACITY` is `2 ^ PTR_W` (R6). -/
  ptrW : Nat
  /-- `THRESHOLD`, read by `PASS` only (R7). -/
  threshold : Nat
  /-- `MIN_RUN` (R9). -/
  minRun : Nat
  /-- `MAX_RUN` (R9). -/
  maxRun : Nat
  /-- `RL_W`, the width of the run-length counter (R10). -/
  rlW : Nat
  /-- `FIX_EN`, the bit-9 correction (R11). -/
  fixEn : Bool
  deriving DecidableEq, Repr

namespace Cfg

/-- `CAPACITY = 2 ^ PTR_W` (R6). -/
def capacity (c : Cfg) : Nat := 2 ^ c.ptrW

/-- The largest value of the run-length counter, `2 ^ RL_W - 1` (R10). -/
def runMax (c : Cfg) : Nat := 2 ^ c.rlW - 1

/-- `RES_W = max(PTR_W, 8)`, the width of the result bus (30_encoding.md R94). -/
def resW (c : Cfg) : Nat := max c.ptrW 8

end Cfg

namespace Config

/-- `MSG_BITS` (R8). -/
def msgBits : Nat := 128

/-- `MSG_BYTES` (R8). -/
def msgBytes : Nat := 16

/-- `FIX_POS` (R11). -/
def fixPos : Nat := 9

/-- `FIX_VAL` (R11). -/
def fixVal : Bit := true

/-- `CAPTURE_MODE`, fixed to disabled (R14); no rule of the enabled mode exists (R128). -/
def captureMode : Bool := false

/-- FREE VALUE: the bit that the n-th draw returns for a sample slot no tick has written
(10_state.md R41, 93 U1, U2; entry 4). -/
opaque freeBit : Nat → Bit

/-- FREE VALUE: what stands on the result bus after an operation that returns nothing
(30_encoding.md R94; entry 6). -/
opaque freeResult : Nat → Nat

/-- The configuration of `State.reset`. DESIGN CHOICE, unsafe (entry 2): the only complete record
the spec writes out, that of 95_test_vectors.md program P4. -/
def example64 : Cfg :=
  { ptrW := 6, threshold := 32, minRun := 4, maxRun := 16, rlW := 16, fixEn := true }

end Config

end Sys2Proof
end

