-- ==== Sys2Proof/WellFormed.lean ====
section
/-!
DEFINITION. Well-formedness. A configuration is well formed when it lies within the legal values of
00_scope.md R6 to R10 (93 U5). An operation has nothing left to check: each operand's type is exactly
the field the encoding gives it (30_encoding.md R93), so an operand out of range cannot be written.
-/

namespace Sys2Proof

namespace Cfg

/-- `PTR_W >= 1` (R6). -/
def ptrWOk (c : Cfg) : Bool := decide (1 ≤ c.ptrW)

/-- `THRESHOLD <= CAPACITY - 1` (R7). -/
def thresholdOk (c : Cfg) : Bool := decide (c.threshold ≤ c.capacity - 1)

/-- `MIN_RUN + 1 < MAX_RUN`: the short window is not empty (R9). -/
def runWindowOk (c : Cfg) : Bool := decide (c.minRun + 1 < c.maxRun)

/-- `2 * MAX_RUN <= 2 ^ RL_W - 1`: the counter reaches past both windows (R9, R10). -/
def counterOk (c : Cfg) : Bool := decide (2 * c.maxRun ≤ c.runMax)

/-- A legal configuration (R6 to R10). -/
def wf (c : Cfg) : Bool := c.ptrWOk && c.thresholdOk && c.runWindowOk && c.counterOk

end Cfg

end Sys2Proof
end

