-- ==== Sys2Proof/Decode.lean ====
section
/-!
DEFINITION. The decoder and the encoder (30_encoding.md R91 to R97). A command word selects the row
whose `word AND mask == match` (R95); a word that no row matches is reserved and is refused by name
(R96). Decoding depends on the word alone (R97).
-/

namespace Sys2Proof

/-- Why a command word is reserved (R96). -/
inductive DecodeError where
  /-- `OP` is 0x0 or 0x9 to 0xF. -/
  | reservedOpcode (op : BitVec 4)
  /-- `OP` is assigned and a must-be-zero bit of `ARG` is set. -/
  | nonzeroMustBeZero (w : CommandWord)
  deriving DecidableEq, Repr

/-- `OP`, bits 11:8 (R91). -/
def opField (w : CommandWord) : BitVec 4 := w.extractLsb' 8 4

/-- `ARG`, bits 7:0 (R91). -/
def argField (w : CommandWord) : BitVec 8 := w.extractLsb' 0 8

/-- One row of the opcode map: `match` and `mask` (R95). -/
structure OpcodeRow where
  pattern : CommandWord
  mask : CommandWord
  deriving DecidableEq, Repr

/-- A word selects a row when `w AND mask == match` (R95). -/
def OpcodeRow.selects (r : OpcodeRow) (w : CommandWord) : Bool := w &&& r.mask == r.pattern

def rowSetsrc : OpcodeRow := ⟨0x100#12, 0xF00#12⟩
def rowAvail : OpcodeRow := ⟨0x200#12, 0xFFF#12⟩
def rowDrain : OpcodeRow := ⟨0x300#12, 0xFFF#12⟩
def rowSbReset : OpcodeRow := ⟨0x400#12, 0xFFF#12⟩
def rowSample : OpcodeRow := ⟨0x500#12, 0xFFE#12⟩
def rowDmReset : OpcodeRow := ⟨0x600#12, 0xFFF#12⟩
def rowBits : OpcodeRow := ⟨0x700#12, 0xFFF#12⟩
def rowMsgb : OpcodeRow := ⟨0x800#12, 0xFF0#12⟩

/-- The command-port rows of the opcode map, in the table's order (R95). -/
def opcodeRows : List OpcodeRow :=
  [rowSetsrc, rowAvail, rowDrain, rowSbReset, rowSample, rowDmReset, rowBits, rowMsgb]

/-- `OP` values 0x1 to 0x8 are assigned (R95, R96). -/
def opAssigned (op : BitVec 4) : Bool := decide (1#4 ≤ op) && decide (op ≤ 8#4)

/-- The decoder of the command port, total on all 4096 words (R93, R95, R96). -/
def decodeCommand (w : CommandWord) : Except DecodeError Instr :=
  if rowSetsrc.selects w then .ok (.setsrc (argField w))
  else if rowAvail.selects w then .ok .avail
  else if rowDrain.selects w then .ok .drain
  else if rowSbReset.selects w then .ok .sbReset
  else if rowSample.selects w then .ok (.sample (w.getLsbD 0))
  else if rowDmReset.selects w then .ok .dmReset
  else if rowBits.selects w then .ok .bits
  else if rowMsgb.selects w then .ok (.msgb (w.extractLsb' 0 4))
  else if opAssigned (opField w) then .error (.nonzeroMustBeZero w)
  else .error (.reservedOpcode (opField w))

/-- The decoder of both ports: on the sampler port the event itself is the operation (R92). -/
def decode : PortWord → Except DecodeError Instr
  | .event d => .ok (.tick d)
  | .command w => decodeCommand w

/-- A command word from its two fields (R91). -/
def commandWord (op : BitVec 4) (arg : BitVec 8) : CommandWord := op ++ arg

/-- The encoder: the port and the word of each operation (R92, R93, R95). -/
def encode : Instr → PortWord
  | .tick d => .event d
  | .setsrc id => .command (commandWord 0x1#4 id)
  | .avail => .command (commandWord 0x2#4 0#8)
  | .drain => .command (commandWord 0x3#4 0#8)
  | .sbReset => .command (commandWord 0x4#4 0#8)
  | .sample b => .command (commandWord 0x5#4 (0#7 ++ BitVec.ofBool b))
  | .dmReset => .command (commandWord 0x6#4 0#8)
  | .bits => .command (commandWord 0x7#4 0#8)
  | .msgb k => .command (commandWord 0x8#4 (0#4 ++ k))

/-- The port word that a table row's bits stand for (entry 24): a row of at most 8 bits (format T,
one payload bit) is an event of the sampler port, a longer one a word of the command port. Bits above
the format's own are no part of any word. -/
def tablePortWord (nbits w : Nat) : Option PortWord :=
  if nbits ≤ 8 then (if w < 2 then some (.event (w == 1)) else none)
  else (if w < 4096 then some (.command (BitVec.ofNat 12 w)) else none)

/-- The instruction the decoder reads from a row's bits. -/
def decodeTableWord (nbits w : Nat) : Option Instr :=
  match tablePortWord nbits w with
  | none => none
  | some p =>
    match decode p with
    | .ok i => some i
    | .error _ => none

end Sys2Proof
end

