-- ==== Sys2Proof/Machine/State.lean ====
section
/-!
DEFINITION. The state of the machine: the ten elements of 10_state.md R20, the configuration loaded
at power-on, the result bus of the command port, and the model's own record of the environment.
Plain data throughout.
-/

namespace Sys2Proof.Machine

/-- A written sample slot: its index and its bit. The unit of `MEM` is one bit (20_memory.md R61;
entry 23). -/
abbrev Slot := Nat × Bit

/-- Who takes the next atomic step (00_scope.md R16, 60_exceptions.md R227). -/
inductive Turn where
  /-- The sampler's next sub-step. -/
  | sampler
  /-- The consumer's next operation. -/
  | consumer
  /-- The sink: `true`, it finishes copying the message it is offered; `false`, its publish fails
  and it goes on holding the consumer (R213). -/
  | sink (copied : Bool)
  deriving DecidableEq, Repr

/-- Where the drain sequencer stands: the operation it issues next, with its locals
(42_sequencer.md R190 to R192). `left` counts the drains still to make in this pass. -/
inductive SeqPoint where
  /-- `n <- SB.AVAIL`, the start of a pass. -/
  | count
  /-- `SB.RESET` of `RECOVER`. -/
  | flushBuffer
  /-- `DM.RESET` of `RECOVER`. -/
  | flushDemod
  /-- `s <- SB.DRAIN`, this drain counted in `left`. -/
  | drain (left : Nat)
  /-- `DM.SAMPLE s`. -/
  | feed (left : Nat) (b : Bit)
  /-- `if DM.BITS == 128`. -/
  | check (left : Nat)
  /-- `B[k] <- DM.MSGB k` with `k` the number of bytes taken so far. -/
  | deliver (left : Nat) (taken : List Byte)
  /-- `B` is handed to the sink; the consumer waits until the sink has copied it. -/
  | handOver (left : Nat) (offered : List Byte)
  /-- `DM.RESET` of `DELIVER`. -/
  | release (left : Nat)
  deriving DecidableEq, Repr

/-- Why the machine stops. The block itself raises nothing (60_exceptions.md R210). -/
inductive Fault where
  /-- Raised by T1 and by `SB.DRAIN` when `head` or `tail` is no slot index, so that `MEM[..]` names
  no cell (20_memory.md R60). Safe: no run from power-on reaches it (entry 15). -/
  | sampleSlotOutOfRange
  /-- Raised by `append` when `bit_index >= 128`: `MSG[128]` does not exist (41_demodulator.md R171).
  Safe: no run from power-on reaches it (entry 15). -/
  | messageCellOutOfRange
  deriving DecidableEq, Repr

/-- Why the model gives a run no meaning. -/
inductive Refusal where
  /-- An instruction that has no meaning yet. Safe. -/
  | notModelled (mnemonic : String)
  /-- Raised by the consumer's step on a reserved command word (30_encoding.md R96, 93 U7). Safe. -/
  | reservedWord (why : DecodeError)
  /-- Raised by `SB.SETSRC` after the first T1 (40_sample_buffer.md R121 (b), 93 U3). Safe. -/
  | setSourceAfterFirstTick
  /-- Raised by every step under a configuration outside the legal values (93 U5). Safe. -/
  | illegalConfiguration
  deriving DecidableEq, Repr

/-- The machine. -/
structure State where
  /-- The configuration, loaded at power-on and never written (00_scope.md R15; entry 2). -/
  cfg : Cfg
  /-- Index of the next write slot (10_state.md R21). -/
  head : Nat
  /-- Index of the next read slot (R22). -/
  tail : Nat
  /-- `MEM`: the slots a tick has written, indices strictly rising (R23; entries 4, 23). -/
  mem : List Slot
  /-- `input_sel` (R24). -/
  inputSel : LineId
  /-- `tick_open`: 1 exactly between T1 and T2 of one tick (R25). -/
  tickOpen : Bit
  /-- `last_level` (R27). -/
  lastLevel : Bit
  /-- `run_length` (R28). -/
  runLength : Nat
  /-- `phase`: 0 first half, 1 second half of the bit period (R29). -/
  phase : Bit
  /-- `bit_index`: the number of bits decoded (R30). -/
  bitIndex : Nat
  /-- `MSG`: cell `i` is bit `i` counted from the most significant (R31, R62). -/
  msg : BitVec 128
  /-- The result bus of the command port (30_encoding.md R94). -/
  result : Nat
  /-- The last command-port operation returned a value, so the bus may be read (R94; entry 6). -/
  resultDefined : Bool
  /-- A T1 has run since power-on (entry 12). -/
  ticked : Bool
  /-- How many free values have been drawn (entry 5). -/
  draws : Nat
  /-- Whose atomic steps come next; empty: nobody moves (20_memory.md R68; entry 9). -/
  turns : List Turn
  /-- The ticks that are due, with the level of every line at each T1 (entry 10). -/
  lines : List LineLevels
  /-- The command words the consumer issues, in order (R68 (c)). -/
  commands : List CommandWord
  /-- The drain sequencer, run when no command word is left; `none`: there is none (entry 17). -/
  sequencer : Option SeqPoint
  /-- The messages the sink has copied, oldest first (entry 18). -/
  delivered : List (List Byte)
  deriving DecidableEq, Repr

/-- Power-on under a configuration (10_state.md R39 to R42, 70_reset_and_hazards.md R240, R241). The
value of `inputSel` and of the model's own fields are choices (entries 3, 5, 6, 9, 12, 17, 18). -/
def State.powerOn (c : Cfg) : State where
  cfg := c
  head := 0
  tail := 0
  mem := []
  inputSel := 0#8
  tickOpen := false
  lastLevel := false
  runLength := 0
  phase := false
  bitIndex := 0
  msg := 0#128
  result := 0
  resultDefined := false
  ticked := false
  draws := 0
  turns := []
  lines := []
  commands := []
  sequencer := none
  delivered := []

/-- The machine right after reset, at the configuration of entry 2. -/
def State.reset : State := State.powerOn Config.example64

/-- What an instruction, or a step, answers. -/
abbrev Answer := Host.Outcome State Fault Refusal

end Sys2Proof.Machine
end

