-- ==== Sys2Proof/Machine/Operands.lean ====
section
/-!
DEFINITION. Operands and results: the level of the selected line, the cells and bytes of the message,
and values on the result bus (00_scope.md section 6, 20_memory.md R62, 30_encoding.md R94).
-/

namespace Sys2Proof.Machine

/-- `LINE(id)` at the moment the levels were presented (00_scope.md R17). -/
def lineLevel (levels : LineLevels) (id : LineId) : Bit := levels.getLsbD id.toNat

/-- `MSG[i]`, the `i`-th decoded bit (10_state.md R31); cell 0 is the most significant bit. -/
def msgCell (m : BitVec 128) (i : Nat) : Bit := m.getMsbD i

/-- `MSG[i] <- b` for `i < 128`: the cell is written, not OR-ed into (41_demodulator.md R162). -/
def setMsgCell (m : BitVec 128) (i : Nat) (b : Bit) : BitVec 128 :=
  if b then m ||| (1#128 <<< (127 - i)) else m &&& ~~~(1#128 <<< (127 - i))

/-- Eight bits as a byte, the first the most significant (20_memory.md R62). -/
def byteOfBits (b0 b1 b2 b3 b4 b5 b6 b7 : Bit) : Byte :=
  BitVec.ofBool b0 ++ BitVec.ofBool b1 ++ BitVec.ofBool b2 ++ BitVec.ofBool b3 ++
    BitVec.ofBool b4 ++ BitVec.ofBool b5 ++ BitVec.ofBool b6 ++ BitVec.ofBool b7

/-- Byte `k` of the message, `{MSG[8k], .., MSG[8k+7]}` with `MSG[8k]` as bit 7 (R62, R166). -/
def msgByte (m : BitVec 128) (k : Nat) : Byte :=
  byteOfBits (msgCell m (8 * k)) (msgCell m (8 * k + 1)) (msgCell m (8 * k + 2))
    (msgCell m (8 * k + 3)) (msgCell m (8 * k + 4)) (msgCell m (8 * k + 5))
    (msgCell m (8 * k + 6)) (msgCell m (8 * k + 7))

/-- The first `n` bytes of the message, byte 0 first (20_memory.md R63). -/
def msgBytesTo (m : BitVec 128) (n : Nat) : List Byte := (List.range n).map (msgByte m)

/-- The 16 bytes of the message (00_scope.md R8, 20_memory.md R63). -/
def msgBytes (m : BitVec 128) : List Byte := msgBytesTo m Config.msgBytes

/-- `zext` of one bit (00_scope.md section 6). -/
def zextBit (b : Bit) : Nat := b.toNat

/-- What stands on the result bus when it holds no defined value: any value of `RES_W` bits
(30_encoding.md R94; entry 6). -/
def undefinedResult (c : Cfg) (n : Nat) : Nat := Config.freeResult n % 2 ^ c.resW

end Sys2Proof.Machine
end

