-- ==== Sys2Proof/Machine/Flags.lean ====
section
/-!
DEFINITION. The computed conditions of the block; none is stored (10_state.md R26, R32, R36): the
pending count, EMPTY, BACKLOG, COMPLETE, SYNCING, and the class of a run (41_demodulator.md R154).
-/

namespace Sys2Proof.Machine

/-- `available = (head - tail) mod CAPACITY`, the mathematical remainder (10_state.md R26,
20_memory.md R75). -/
def availableCount (s : State) : Nat :=
  (((s.head : Int) - (s.tail : Int)) % (s.cfg.capacity : Int)).toNat

/-- EMPTY (10_state.md R36). -/
def isEmpty (s : State) : Bool := availableCount s == 0

/-- BACKLOG for a count: strictly more than `THRESHOLD` (R36, 20_memory.md R76). -/
def isBacklog (c : Cfg) (n : Nat) : Bool := decide (c.threshold < n)

/-- The Demodulator's implicit states (10_state.md R32, 41_demodulator.md R167). -/
inductive DemodState where
  | syncing
  | accumulating
  | complete
  deriving DecidableEq, Repr

/-- COMPLETE: the message is frozen (R36, R151). -/
def isComplete (s : State) : Bool := s.bitIndex == Config.msgBits

/-- The implicit state as a function of `bit_index` (R32). -/
def demodState (s : State) : DemodState :=
  if s.bitIndex = 0 then .syncing
  else if s.bitIndex = Config.msgBits then .complete
  else .accumulating

/-- The class of a latched run length (41_demodulator.md R154). -/
inductive PulseClass where
  | short
  | long
  | other
  deriving DecidableEq, Repr

/-- The classification windows, strict on both sides (R154, 20_memory.md R76). -/
def classify (c : Cfg) (l : Nat) : PulseClass :=
  if c.minRun < l ∧ l < c.maxRun then .short
  else if c.maxRun < l ∧ l < 2 * c.maxRun then .long
  else .other

/-- `sat_inc` (20_memory.md R77). -/
def satInc (c : Cfg) (v : Nat) : Nat := if v < c.runMax then v + 1 else v

/-- `Desync`: a transition whose run is in no valid window for the current phase (60_exceptions.md
R211, 41_demodulator.md R158, R159). -/
def isDesync (s : State) (b : Bit) : Bool :=
  !isComplete s && b != s.lastLevel &&
    match classify s.cfg s.runLength, s.phase with
    | .other, _ => true
    | .long, false => true
    | _, _ => false

end Sys2Proof.Machine
end

