-- ==== Sys2Proof/Machine/Ops.lean ====
section
/-!
DEFINITION. The shared operations: the sample store, the pointers, the result bus, and the two
primitives of the Demodulator (20_memory.md sections 3 and 6, 41_demodulator.md section 1). The block
takes no exception and has none to return from (60_exceptions.md R210): there is no such operation.
-/

namespace Sys2Proof.Machine

/-- Go on with `f` where an operation answered a next state; stop where it stopped. -/
def andThen (a : Answer) (f : State → Answer) : Answer :=
  match a with
  | .next s => f s
  | .fault r => .fault r
  | .refused r => .refused r

/-! ### The sample store `MEM` (10_state.md R23, 20_memory.md R60, R61) -/

/-- What slot `i` holds; `none` when no tick has written it (R41). -/
def readSlot (m : List Slot) (i : Nat) : Option Bit :=
  match m with
  | [] => none
  | (k, b) :: rest => if k = i then some b else readSlot rest i

/-- `MEM[i] <- b`, keeping the indices in rising order. -/
def writeSlot (m : List Slot) (i : Nat) (b : Bit) : List Slot :=
  match m with
  | [] => [(i, b)]
  | (k, x) :: rest =>
    if i < k then (i, b) :: (k, x) :: rest
    else if k = i then (i, b) :: rest
    else (k, x) :: writeSlot rest i b

/-- The indices rise strictly from above `lo` and stay below `cap`. -/
def slotsFrom (cap : Nat) (lo : Nat) (m : List Slot) : Bool :=
  match m with
  | [] => true
  | (k, _) :: rest => decide (lo ≤ k) && decide (k < cap) && slotsFrom cap (k + 1) rest

/-- The canonical form of the store: strictly rising indices, all below `CAPACITY`. What no entry
lists, no tick has written; every entry is written, so there is nothing else to leave out. -/
def Memory.wf (c : Cfg) (m : List Slot) : Bool := slotsFrom c.capacity 0 m

/-- `MemRead(i, 1)`: the bit and the number of draws used up. A never-written slot gives a free bit,
one draw per read (R41, 93 U2). -/
def memRead (s : State) (i : Nat) : Bit × Nat :=
  match readSlot s.mem i with
  | some b => (b, s.draws)
  | none => (Config.freeBit s.draws, s.draws + 1)

/-! ### Pointers (20_memory.md R75) -/

/-- `(p + 1) mod CAPACITY`. -/
def nextPointer (c : Cfg) (p : Nat) : Nat := (p + 1) % c.capacity

/-! ### The result bus (30_encoding.md R94) -/

/-- `return v`. -/
def State.returning (s : State) (v : Nat) : State := { s with result := v, resultDefined := true }

/-- The end of an operation that returns nothing: the bus then holds no defined value, which is a
free value of `RES_W` bits. -/
def State.returningNothing (s : State) : State :=
  { s with result := undefinedResult s.cfg s.draws, resultDefined := false, draws := s.draws + 1 }

/-! ### The Demodulator's primitives -/

/-- `append(b)` (41_demodulator.md R162), called only with `bit_index < 128` (R171). -/
def append (b : Bit) (s : State) : Answer :=
  if s.bitIndex < Config.msgBits then
    .next { s with msg := setMsgCell s.msg s.bitIndex b, bitIndex := s.bitIndex + 1 }
  else .fault .messageCellOutOfRange

/-- `clear()` (R163); `last_level` is not written. -/
def State.cleared (s : State) : State :=
  { s with bitIndex := 0, phase := false, runLength := 0, msg := 0#128 }

/-! ### Waiting (20_memory.md R71) -/

/-- The consumer waits: `SB.RESET` is not enabled while a tick is open. Every other consumer step is
always enabled (R73). -/
def waits (i : Instr) (s : State) : Bool := decide (i = .sbReset) && s.tickOpen

end Sys2Proof.Machine
end

