-- ==== Sys2Proof/Machine/Demodulator.lean ====
section
/-!
DEFINITION. The operations of the PPM Demodulator (41_demodulator.md R150 to R166).
-/

namespace Sys2Proof.Machine

/-- The bit-9 correction fires (R160): enabled, `bit_index == 9` before any append, level 1. The
class and the phase are the caller's. -/
def correctionFires (s : State) : Bool :=
  s.cfg.fixEn && s.bitIndex == Config.fixPos && s.lastLevel

/-- The optional extra append of R160. -/
def correction (s : State) : Answer :=
  if correctionFires s then append Config.fixVal s else .next s

/-- Short pulse, first half (R155): the correction, the bit, `phase <- 1`. -/
def shortFirstHalf (s : State) : Answer :=
  andThen (correction s) fun t =>
    andThen (append s.lastLevel t) fun u => .next { u with phase := true }

/-- The arms of step 3 for the latched class (R155 to R159); `s` has `run_length` already cleared. -/
def classified (k : PulseClass) (s : State) : Answer :=
  match k, s.phase with
  | .short, false => shortFirstHalf s
  | .short, true => .next { s with phase := false }
  | .long, true => append s.lastLevel s
  | .long, false => .next s.cleared
  | .other, _ => .next s.cleared

/-- Steps 2 and 3 (R152, R153). -/
def sampleBody (b : Bit) (s : State) : Answer :=
  if b = s.lastLevel then .next { s with runLength := satInc s.cfg s.runLength }
  else classified (classify s.cfg s.runLength) { s with runLength := 0 }

/-- `DM.SAMPLE s` (R150): frozen (R151), else steps 2 and 3 and then step 4, `last_level <- s`
(R161). It returns nothing. -/
def execSample (b : Bit) (s : State) : Answer :=
  if isComplete s then .next s.returningNothing
  else andThen (sampleBody b s) fun t => .next ({ t with lastLevel := b }).returningNothing

/-- `DM.RESET` (R164): `clear(); last_level <- 0`. -/
def execDmReset (s : State) : Answer :=
  .next ({ s.cleared with lastLevel := false }).returningNothing

/-- `DM.BITS` (R165). -/
def execBits (s : State) : Answer :=
  .next (s.returning s.bitIndex)

/-- `DM.MSGB k` (R166): byte `k` of the cells as they are (entry 16). -/
def execMsgb (k : BitVec 4) (s : State) : Answer :=
  .next (s.returning (msgByte s.msg k.toNat).toNat)

end Sys2Proof.Machine
end

