-- ==== Sys2Proof/Machine/SampleBuffer.lean ====
section
/-!
DEFINITION. The operations of the Sample Buffer (40_sample_buffer.md R120 to R124).
-/

namespace Sys2Proof.Machine

/-- T1: one read of the line, the store at `head`, the tick is open (R120). -/
def tickT1 (d : Bit) (s : State) : Answer :=
  if s.head < s.cfg.capacity then
    .next { s with mem := writeSlot s.mem s.head d, tickOpen := true, ticked := true }
  else .fault .sampleSlotOutOfRange

/-- T2: publish the new `head`, the tick is over (R120). -/
def tickT2 (s : State) : Answer :=
  .next { s with head := nextPointer s.cfg s.head, tickOpen := false }

/-- `TICK d` (R120): the sampler's next sub-step; `tick_open` says which (20_memory.md R68 (a)). The
payload belongs to T1; T2 does not read it (entry 8). Nothing is put on the result bus, which is the
command port's (30_encoding.md R90, R94; entry 7). -/
def execTick (d : Bit) (s : State) : Answer :=
  if s.tickOpen then tickT2 s else tickT1 d s

/-- `SB.SETSRC id` (R121). After the first T1 the run has no meaning (R121 (b), 93 U3). -/
def execSetsrc (id : LineId) (s : State) : Answer :=
  if s.ticked then .refused .setSourceAfterFirstTick
  else .next ({ s with inputSel := id }).returningNothing

/-- `SB.AVAIL` (R122): one snapshot of `head`. -/
def execAvail (s : State) : Answer :=
  .next (s.returning (availableCount s))

/-- `SB.DRAIN` (R123): unconditional, also with `tail == head`. -/
def execDrain (s : State) : Answer :=
  if s.tail < s.cfg.capacity then
    .next ({ s with tail := nextPointer s.cfg s.tail, draws := (memRead s s.tail).2 }.returning
      (zextBit (memRead s s.tail).1))
  else .fault .sampleSlotOutOfRange

/-- `SB.RESET` (R124): enabled only when no tick is open; otherwise the consumer waits and nothing
happens (20_memory.md R71; entry 11). -/
def execSbReset (s : State) : Answer :=
  if waits .sbReset s then .next s
  else .next ({ s with head := 0, tail := 0 }).returningNothing

end Sys2Proof.Machine
end

