-- ==== Sys2Proof/Machine/Dispatch.lean ====
section
/-!
DEFINITION. The dispatch: one arm per operation of the opcode map (30_encoding.md R95).
-/

namespace Sys2Proof.Machine

def exec (i : Instr) (s : State) : Host.Outcome State Fault Refusal :=
  match i with
  | .tick d => Sys2Proof.Machine.execTick d s
  | .setsrc id => Sys2Proof.Machine.execSetsrc id s
  | .avail => Sys2Proof.Machine.execAvail s
  | .drain => Sys2Proof.Machine.execDrain s
  | .sbReset => Sys2Proof.Machine.execSbReset s
  | .sample b => Sys2Proof.Machine.execSample b s
  | .dmReset => Sys2Proof.Machine.execDmReset s
  | .bits => Sys2Proof.Machine.execBits s
  | .msgb k => Sys2Proof.Machine.execMsgb k s

end Sys2Proof.Machine
end

