-- ==== Sys2Proof/Machine/Sequencer.lean ====
section
/-!
DEFINITION. The drain sequencer as a program of the consumer (42_sequencer.md R190 to R193): which
operation each point issues, and where it goes next, read from the result the operation returned.
-/

namespace Sys2Proof.Machine

/-- The operation a point issues; `none` at the hand-over, where the consumer waits for the sink
(R192). -/
def seqInstr (p : SeqPoint) : Option Instr :=
  match p with
  | .count => some .avail
  | .flushBuffer => some .sbReset
  | .flushDemod => some .dmReset
  | .drain _ => some .drain
  | .feed _ b => some (.sample b)
  | .check _ => some .bits
  | .deliver _ taken => some (.msgb (BitVec.ofNat 4 taken.length))
  | .handOver _ _ => none
  | .release _ => some .dmReset

/-- The loop of a pass: the next drain, or the next pass when none is left (R190, R193). -/
def nextDrain (left : Nat) : SeqPoint := if left = 0 then .count else .drain left

/-- `PASS` after its count: the backlog test comes before, and instead of, the drain loop (R190). -/
def afterCount (c : Cfg) (n : Nat) : SeqPoint :=
  if isBacklog c n then .flushBuffer else nextDrain n

/-- `B[k] <- DM.MSGB k` for `k` from 0 to 15, then the hand-over (R192). -/
def afterByte (left : Nat) (taken : List Byte) : SeqPoint :=
  if taken.length < Config.msgBytes then .deliver left taken else .handOver left taken

/-- The point after an operation that returned `v` under configuration `c` (R190 to R192). -/
def seqAfter (c : Cfg) (p : SeqPoint) (v : Nat) : SeqPoint :=
  match p with
  | .count => afterCount c v
  | .flushBuffer => .flushDemod
  | .flushDemod => .count
  | .drain left => .feed (left - 1) (v != 0)
  | .feed left _ => .check left
  | .check left => if v = Config.msgBits then .deliver left [] else nextDrain left
  | .deliver left taken => afterByte left (taken ++ [BitVec.ofNat 8 v])
  | .handOver left offered => .handOver left offered
  | .release left => nextDrain left

end Sys2Proof.Machine
end

