-- ==== Sys2Proof/Machine/Agents.lean ====
section
/-!
DEFINITION. What each agent does in its turn (00_scope.md R16, 20_memory.md R68, 60_exceptions.md
R227), and how an instruction is placed on its port.
-/

namespace Sys2Proof.Machine

/-- The sampler's turn: an open tick runs T2, which waits for nothing (R221) and does not read the
payload given to it here; otherwise the next tick that is due, if any, runs T1 with
`d = LINE(input_sel)` (30_encoding.md R92). -/
def samplerTurn (s : State) : Answer :=
  if s.tickOpen then exec (.tick false) s
  else
    match s.lines with
    | [] => .next s
    | levels :: rest => exec (.tick (lineLevel levels s.inputSel)) { s with lines := rest }

/-- The sequencer's next operation (42_sequencer.md R190 to R192). At the hand-over, and while
`SB.RESET` is not enabled, the consumer waits. -/
def sequencerTurn (p : SeqPoint) (s : State) : Answer :=
  match seqInstr p with
  | none => .next s
  | some i =>
    if waits i s then .next s
    else andThen (exec i s) fun t =>
      .next { t with sequencer := some (seqAfter t.cfg p t.result) }

/-- The next command word is decoded and executed; a reserved word is refused (30_encoding.md R96);
while `SB.RESET` is not enabled the consumer waits and its word stays (20_memory.md R71). -/
def commandTurn (w : CommandWord) (rest : List CommandWord) (s : State) : Answer :=
  match decode (.command w) with
  | .error e => .refused (.reservedWord e)
  | .ok i => if waits i s then .next s else exec i { s with commands := rest }

/-- The consumer's turn: its command words first, then the sequencer; else it is idle (entry 17). -/
def consumerTurn (s : State) : Answer :=
  match s.commands with
  | w :: rest => commandTurn w rest s
  | [] =>
    match s.sequencer with
    | none => .next s
    | some p => sequencerTurn p s

/-- The sink's turn: at a hand-over it finishes its copy, which lets the consumer go on to `DM.RESET`,
or its publish fails and it holds the consumer longer (R192, 60_exceptions.md R213, R227). -/
def sinkTurn (copied : Bool) (s : State) : State :=
  match s.sequencer, copied with
  | some (.handOver left offered), true =>
    { s with delivered := s.delivered ++ [offered], sequencer := some (.release left) }
  | _, _ => s

/-- The agent whose turn it is takes its step; with no turn left nobody moves (R241; entry 9). -/
def takeTurn (s : State) : Answer :=
  match s.turns with
  | [] => .next s
  | .sampler :: rest => samplerTurn { s with turns := rest }
  | .consumer :: rest => consumerTurn { s with turns := rest }
  | .sink copied :: rest => .next (sinkTurn copied { s with turns := rest })

/-- Place a port word so that the very next step runs it: a tick event with every line at its level,
or a command word at the front of the consumer's words, and that agent's turn first (entry 24). -/
def placeWord (p : PortWord) (s : State) : State :=
  match p with
  | .event d =>
    { s with
      lines := (if d then BitVec.allOnes 256 else 0#256) :: s.lines
      turns := .sampler :: s.turns }
  | .command w => { s with commands := w :: s.commands, turns := .consumer :: s.turns }

/-- The state at which the boot sequence enters the loop of `PASS` (70_reset_and_hazards.md R242):
power-on, then `SB.SETSRC id` as the consumer's first word, then the sequencer. That ticks start only
after it is the duty of the schedule (R249). -/
def bootState (c : Cfg) (id : LineId) : State :=
  { State.powerOn c with commands := [commandWord 0x1#4 id], sequencer := some .count }

end Sys2Proof.Machine
end

