-- ==== Sys2Proof/Machine/Step.lean ====
section
/-!
DEFINITION. One atomic step of the machine (20_memory.md R68).
-/

namespace Sys2Proof.Machine

/-- One step: under a legal configuration (93 U5), the agent whose turn it is takes its atomic step. -/
def step (s : State) : Host.Outcome State Fault Refusal :=
  if s.cfg.wf then takeTurn s else .refused .illegalConfiguration

/-- The state whose very next step runs the row's bits `w` as one operation on its port. Bits that
are no word of a port are placed as the reserved word 0x000, which step refuses (entry 24). -/
def State.withFetchWord (s : State) (nbits w : Nat) : State :=
  match tablePortWord nbits w with
  | some p => placeWord p s
  | none => placeWord (.command 0x000#12) s

end Sys2Proof.Machine
end

