-- ==== Sys2Proof/Machine/Conditions.lean ====
section
/-!
DEFINITION. The named conditions of 60_exceptions.md section 1: labels for a trace, computed beside
the step. They write no state and the hardware signals nothing (R210; entry 19).
-/

namespace Sys2Proof.Machine

/-- The five names (R210). -/
inductive Condition where
  /-- R211. -/
  | desync
  /-- R212. -/
  | backlog
  /-- R213. -/
  | transportFailure
  /-- R214. -/
  | underflow
  /-- R215. -/
  | overrunWrap
  deriving DecidableEq, Repr

/-- The conditions that executing an operation at a state marks. `overrunWrap` is marked at the T2
that brings `head` round to `tail`, from which on `available` hides unread samples. -/
def instrConditions (i : Instr) (s : State) : List Condition :=
  match i with
  | .tick _ => if s.tickOpen && nextPointer s.cfg s.head == s.tail then [.overrunWrap] else []
  | .drain => if s.head = s.tail then [.underflow] else []
  | .sample b => if isDesync s b then [.desync] else []
  | .setsrc _ => []
  | .avail => []
  | .sbReset => []
  | .dmReset => []
  | .bits => []
  | .msgb _ => []

/-- `Backlog` is the sequencer's comparison of the count (R212, 42_sequencer.md R190). -/
def seqConditions (p : SeqPoint) (s : State) : List Condition :=
  match seqInstr p with
  | none => []
  | some i =>
    instrConditions i s ++
      (if decide (p = .count) && isBacklog s.cfg (availableCount s) then [.backlog] else [])

/-- The conditions the next step marks. -/
def stepConditions (s : State) : List Condition :=
  match s.turns with
  | [] => []
  | .sampler :: _ => if s.tickOpen then instrConditions (.tick false) s else []
  | .consumer :: _ =>
    match s.commands, s.sequencer with
    | w :: _, _ =>
      match decode (.command w) with
      | .ok i => instrConditions i s
      | .error _ => []
    | [], some p => seqConditions p s
    | [], none => []
  | .sink copied :: _ =>
    match s.sequencer, copied with
    | some (.handOver _ _), false => [.transportFailure]
    | _, _ => []

end Sys2Proof.Machine
end

