-- ==== Sys2Proof/Safety.lean ====
section
/-!
DEFINITION. The terms claims are stated in: runs of operations, the invariant of the machine, the
named premises that 70_reset_and_hazards.md puts on software, and the line code of 41_demodulator.md
R169.
-/

namespace Sys2Proof.Machine

/-! ### Runs of operations, in the given order -/

/-- Execute a list of operations, stopping where one stops. -/
def execAll (is : List Instr) (s : State) : Answer :=
  match is with
  | [] => .next s
  | i :: rest => andThen (exec i s) (execAll rest)

/-- Execute a list of operations and collect what stands on the result bus after each. -/
def execResults (is : List Instr) (s : State) : Option (State × List Nat) :=
  match is with
  | [] => some (s, [])
  | i :: rest =>
    match exec i s with
    | .next t => (execResults rest t).map fun (u, vs) => (u, t.result :: vs)
    | .fault _ => none
    | .refused _ => none

/-- `k` steps of the machine, stopping where one stops (the host's `Core.run`, at the model's own
types). -/
def runSteps (k : Nat) (s : State) : Answer :=
  match k with
  | 0 => .next s
  | k + 1 => andThen (step s) (runSteps k)

/-- Completed ticks with the given levels: T1 and T2 of each (40_sample_buffer.md R120). -/
def fullTicks (ds : List Bit) : List Instr := ds.flatMap fun d => [.tick d, .tick d]

/-- Execute a list of operations and collect what its drains return, in order. -/
def drainResults (is : List Instr) (s : State) : Option (State × List Nat) :=
  match is with
  | [] => some (s, [])
  | i :: rest =>
    match exec i s with
    | .next t =>
      (drainResults rest t).map fun (u, vs) => (u, if i = .drain then t.result :: vs else vs)
    | .fault _ => none
    | .refused _ => none

/-- How many drains a list of operations makes. -/
def drains (is : List Instr) : Nat := is.count .drain

/-- How many ticks a list of operations completes, from a state with a tick open or not: each T2
completes one (40_sample_buffer.md R120). -/
def ticksDone (isOpen : Bit) (is : List Instr) : Nat :=
  match is with
  | [] => 0
  | .tick _ :: rest => (if isOpen then 1 else 0) + ticksDone (!isOpen) rest
  | _ :: rest => ticksDone isOpen rest

/-- The levels that the T1 sub-steps of a list of operations store, in order (R120). -/
def tickLevels (isOpen : Bit) (is : List Instr) : List Bit :=
  match is with
  | [] => []
  | .tick d :: rest => if isOpen then tickLevels false rest else d :: tickLevels true rest
  | _ :: rest => tickLevels isOpen rest

/-- The operations that may stand among ticks and drains while the buffer is in use: all but
`SB.RESET`, which empties it (70_reset_and_hazards.md R244), and `SB.SETSRC`, which comes before the
first tick (R249). -/
def keepsQueue (i : Instr) : Bool :=
  match i with
  | .tick _ => true
  | .setsrc _ => false
  | .avail => true
  | .drain => true
  | .sbReset => false
  | .sample _ => true
  | .dmReset => true
  | .bits => true
  | .msgb _ => true

/-- `RECOVER = SB.RESET ; DM.RESET` (42_sequencer.md R191). -/
def recoverOps : List Instr := [.sbReset, .dmReset]

/-- The operation completes in `t` and returns `n` (30_encoding.md R94). -/
def Returns (i : Instr) (s t : State) (n : Nat) : Prop :=
  exec i s = .next { t with result := n, resultDefined := true }

/-- The operation completes in `t` and returns nothing: some value of the result bus's width stands
on the bus, and it is not defined (R94; a free value, entry 6, and one draw, entry 5). -/
def ReturnsNothing (i : Instr) (s t : State) : Prop :=
  ∃ v, v < 2 ^ t.cfg.resW ∧
    exec i s = .next { t with result := v, resultDefined := false, draws := s.draws + 1 }

/-- Cell `i` of the message becomes `b` and no other cell changes (41_demodulator.md R162). -/
def CellWritten (m m' : BitVec 128) (i : Nat) (b : Bit) : Prop :=
  ∀ j, msgCell m' j = if j = i then b else msgCell m j

/-- The pointer after an increment: 0 after the last slot, else one more (20_memory.md R75). -/
def wrapSucc (c : Cfg) (p : Nat) : Nat := if p + 1 = c.capacity then 0 else p + 1

/-! ### The invariant -/

/-- What the sequencer's point promises while a message is handed over: the message is complete, the
bytes taken so far are its own, and nothing else is about to be issued (42_sequencer.md R192). -/
def handOverInv (s : State) : Prop :=
  match s.sequencer with
  | some (.deliver _ taken) =>
    s.commands = [] ∧ s.bitIndex = Config.msgBits ∧ taken.length < Config.msgBytes ∧
      taken = msgBytesTo s.msg taken.length
  | some (.handOver _ offered) =>
    s.commands = [] ∧ s.bitIndex = Config.msgBits ∧ offered = msgBytes s.msg
  | some (.release _) =>
    s.commands = [] ∧ s.bitIndex = Config.msgBits ∧
      s.delivered.getLast? = some (msgBytes s.msg)
  | _ => True

/-- The invariant that every step keeps. -/
structure Invariant (s : State) : Prop where
  /-- The configuration is legal (00_scope.md R6 to R10). -/
  cfgWf : s.cfg.wf = true
  /-- `head` is a slot index (10_state.md R21). -/
  headLt : s.head < s.cfg.capacity
  /-- `tail` is a slot index (R22). -/
  tailLt : s.tail < s.cfg.capacity
  /-- The store is in canonical form. -/
  memWf : Memory.wf s.cfg s.mem = true
  /-- The counter fits its width (R28). -/
  runLe : s.runLength ≤ s.cfg.runMax
  /-- `bit_index <= 128` (41_demodulator.md R171). -/
  bitLe : s.bitIndex ≤ Config.msgBits
  /-- In SYNCING `phase` is 0 (R167). -/
  syncPhase : s.bitIndex = 0 → s.phase = false
  /-- The cells at and above `bit_index` are clear (R162, R163). -/
  msgClear : ∀ i, s.bitIndex ≤ i → msgCell s.msg i = false
  /-- The result fits the result bus (30_encoding.md R94). -/
  resultLt : s.result < 2 ^ s.cfg.resW
  /-- An open tick has run its T1. -/
  openTicked : s.tickOpen = true → s.ticked = true
  /-- The hand-over in progress is of the completed message. -/
  handOver : handOverInv s

/-- A safe step: the machine goes on. -/
def StepsOn (s : State) : Prop := ∃ t, step s = .next t

/-! ### Duties of software (70_reset_and_hazards.md), as premises of claims -/

/-- Drain only what was counted (R244): a drain meets `tail != head`. -/
def DrainHasSample (s : State) : Prop := s.head ≠ s.tail

/-- Fewer than `CAPACITY` ticks complete on top of `unread` samples, so no overrun wrap (R246). -/
def NoOverrun (c : Cfg) (unread ticks : Nat) : Prop := unread + ticks < c.capacity

/-- Select the line before the first tick (R249). -/
def NoTickYet (s : State) : Prop := s.ticked = false

/-- Copy before reset (R248): `DM.RESET` comes only when the sink holds the message. -/
def CopiedBeforeReset (s : State) : Prop := s.delivered.getLast? = some (msgBytes s.msg)

/-- Read the message only when complete (R253). -/
def MessageComplete (s : State) : Prop := s.bitIndex = Config.msgBits

/-- The run parameters fit a half-symbol of `h` samples (R256): `MIN_RUN < h-1 < MAX_RUN` and
`MAX_RUN < 2h-1 < 2*MAX_RUN`. -/
def HalfSymbolFits (c : Cfg) (h : Nat) : Prop :=
  (c.minRun < h - 1 ∧ h - 1 < c.maxRun) ∧ (c.maxRun < 2 * h - 1 ∧ 2 * h - 1 < 2 * c.maxRun)

/-! ### The line code the rules imply (41_demodulator.md R169) -/

/-- Bit `b` as `h` samples at level `b` and `h` samples at level `not b`. -/
def encodeSymbol (h : Nat) (b : Bit) : List Bit := List.replicate h b ++ List.replicate h (!b)

/-- A sequence of bits after a lead-in of `g` samples at level `not b_0`. -/
def encodeBits (h g : Nat) (bs : List Bit) : List Bit :=
  List.replicate g (!bs.headD true) ++ bs.flatMap (encodeSymbol h)

/-- The 128 bits of a message in decoding order (20_memory.md R62, R63). -/
def messageBits (m : BitVec 128) : List Bit := (List.range Config.msgBits).map (msgCell m)

/-- The demodulator is in its reset state (10_state.md R40). -/
def DemodFresh (s : State) : Prop :=
  s.bitIndex = 0 ∧ s.phase = false ∧ s.runLength = 0 ∧ s.lastLevel = false ∧ s.msg = 0#128

end Sys2Proof.Machine
end

