-- ==== Sys2Proof/Certificates/Slice0/Obligations.lean ====
section
/-!
DEFINITION. The statements for the provers. Each says in its docstring which rule of spec/ it rests
on; OBLIGATIONS.json lists them.
-/

open Sys2Proof Sys2Proof.Machine

/-! ### Encoding (30_encoding.md) -/

/-- R93, R95: decoding what the encoder writes gives the operation back, with every operand value. -/
def Obligations.DecodeInvertsEncode : Prop :=
  ∀ i : Instr, decode (encode i) = .ok i

/-- R95, R97: a port word that decodes is the encoding of what it decodes to, so no two words spell
one operation. -/
def Obligations.EncodeInvertsDecode : Prop :=
  ∀ (p : PortWord) (i : Instr), decode p = .ok i → encode i = p

/-- R95, R96: the legal command words are those of the opcode map's last column but one, and every
other word is reserved. -/
def Obligations.LegalCommandWords : Prop :=
  ∀ w : CommandWord,
    (∃ i, decode (.command w) = .ok i) ↔
      (0x100 ≤ w.toNat ∧ w.toNat ≤ 0x1FF) ∨ w.toNat = 0x200 ∨ w.toNat = 0x300 ∨
        w.toNat = 0x400 ∨ w.toNat = 0x500 ∨ w.toNat = 0x501 ∨ w.toNat = 0x600 ∨
        w.toNat = 0x700 ∨ (0x800 ≤ w.toNat ∧ w.toNat ≤ 0x80F)

/-- 95_test_vectors.md V-ENC-1: words of every row, written out. -/
def Obligations.SpecWordsDecode : Prop :=
  decode (.event true) = .ok (.tick true) ∧
    decode (.command 0b000100000101#12) = .ok (.setsrc 5#8) ∧
    decode (.command 0b001000000000#12) = .ok .avail ∧
    decode (.command 0b001100000000#12) = .ok .drain ∧
    decode (.command 0b010000000000#12) = .ok .sbReset ∧
    decode (.command 0b010100000001#12) = .ok (.sample true) ∧
    decode (.command 0b011000000000#12) = .ok .dmReset ∧
    decode (.command 0b011100000000#12) = .ok .bits ∧
    decode (.command 0b100000001111#12) = .ok (.msgb 15#4)

/-! ### Steps (20_memory.md R68, 30_encoding.md R90) -/

/-- R90, R95: in the consumer's turn the next command word is decoded and executed, and is used up. -/
def Obligations.ConsumerStepRunsDecodedWord : Prop :=
  ∀ (s : State) (rest : List Turn) (w : CommandWord) (ws : List CommandWord) (i : Instr),
    s.cfg.wf = true → s.turns = .consumer :: rest → s.commands = w :: ws →
      decode (.command w) = .ok i → ¬(i = .sbReset ∧ s.tickOpen = true) →
        step s = exec i { s with turns := rest, commands := ws }

/-- R17, R68 (a), R92: in the sampler's turn the tick that is due runs its T1 with the level of the
selected line; an open tick runs its T2, whatever is due and whatever payload is named. -/
def Obligations.SamplerStepRunsTick : Prop :=
  (∀ (s : State) (rest : List Turn) (levels : LineLevels) (ls : List LineLevels),
    s.cfg.wf = true → s.turns = .sampler :: rest → s.tickOpen = false → s.lines = levels :: ls →
      step s = exec (.tick (levels.getLsbD s.inputSel.toNat))
        { s with turns := rest, lines := ls }) ∧
    (∀ (s : State) (rest : List Turn) (d : Bit),
      s.cfg.wf = true → s.turns = .sampler :: rest → s.tickOpen = true →
        step s = exec (.tick d) { s with turns := rest })

/-- R71: `SB.RESET` issued while a tick is open waits: in the consumer's turn its word stays and
nothing else happens (entry 11); the sampler's T2 lifts the wait, and the same word then takes
effect. -/
def Obligations.OpenTickHoldsBufferReset : Prop :=
  ∀ (s : State) (ws : List CommandWord),
    s.cfg.wf = true → s.tickOpen = true → s.commands = 0x400#12 :: ws →
      (∀ rest, s.turns = .consumer :: rest → step s = .next { s with turns := rest }) ∧
        (∀ rest, s.turns = .consumer :: .sampler :: .consumer :: rest →
          ∃ t, runSteps 3 s = .next t ∧ t.head = 0 ∧ t.tail = 0 ∧ t.tickOpen = false ∧
            t.mem = s.mem ∧ t.commands = ws ∧ t.turns = rest)

/-- R96: in the consumer's turn a reserved word is refused. -/
def Obligations.ReservedWordRefused : Prop :=
  ∀ (s : State) (rest : List Turn) (w : CommandWord) (ws : List CommandWord),
    s.cfg.wf = true → s.turns = .consumer :: rest → s.commands = w :: ws →
      (¬∃ i, decode (.command w) = .ok i) → ∃ e, step s = .refused (.reservedWord e)

/-- 93 U5: no step is taken under a configuration outside the legal values of R6 to R10. -/
def Obligations.IllegalConfigurationRefused : Prop :=
  ∀ s : State,
    (s.cfg.ptrW = 0 ∨ 2 ^ s.cfg.ptrW - 1 < s.cfg.threshold ∨ s.cfg.maxRun ≤ s.cfg.minRun + 1 ∨
        2 ^ s.cfg.rlW - 1 < 2 * s.cfg.maxRun) →
      step s = .refused .illegalConfiguration

/-! ### Reset (10_state.md section 5) -/

/-- R39: the pointers and `tick_open` after power-on, and that nothing is pending. -/
def Obligations.PowerOnPointers : Prop :=
  ∀ c : Cfg,
    (State.powerOn c).head = 0 ∧ (State.powerOn c).tail = 0 ∧
      (State.powerOn c).tickOpen = false ∧ availableCount (State.powerOn c) = 0

/-- R40: the Demodulator after power-on and after `DM.RESET`. -/
def Obligations.DemodulatorResetState : Prop :=
  (∀ c : Cfg, DemodFresh (State.powerOn c)) ∧
    ∀ s : State, ∃ t, exec .dmReset s = .next t ∧ DemodFresh t

/-- R242: the boot sequence selects the line and then stands at the start of a pass. -/
def Obligations.BootSelectsLineThenLoops : Prop :=
  ∀ (c : Cfg) (id : LineId) (rest : List Turn), c.wf = true →
    ∃ t, step { bootState c id with turns := .consumer :: rest } = .next t ∧ t.inputSel = id ∧
      t.commands = [] ∧ t.sequencer = some .count ∧ t.turns = rest ∧ DemodFresh t ∧
      t.head = 0 ∧ t.tail = 0 ∧ t.ticked = false

/-! ### Sample Buffer (40_sample_buffer.md) -/

/-- R120, T1: the level is stored at `head`, the tick is open, and nothing else changes; every other
slot reads as before. (`ticked` is the model's own field, entry 12.) -/
def Obligations.TickT1StoresAtHead : Prop :=
  ∀ (d : Bit) (s : State), s.tickOpen = false → s.head < s.cfg.capacity →
    ∃ m, exec (.tick d) s = .next { s with mem := m, tickOpen := true, ticked := true } ∧
      ∀ i, readSlot m i = if i = s.head then some d else readSlot s.mem i

/-- R120, T2: `head` advances by one modulo `CAPACITY`, the tick is over, nothing else changes. -/
def Obligations.TickT2PublishesHead : Prop :=
  ∀ (d : Bit) (s : State), s.tickOpen = true → s.head < s.cfg.capacity →
    exec (.tick d) s = .next { s with head := wrapSucc s.cfg s.head, tickOpen := false }

/-- R121: before the first tick `SB.SETSRC` writes `input_sel` and nothing else; after it, it is
refused (R121 (b)). -/
def Obligations.SetSourceSelectsLine : Prop :=
  ∀ (id : LineId) (s : State),
    (s.ticked = false → ReturnsNothing (.setsrc id) s { s with inputSel := id }) ∧
      (s.ticked = true → exec (.setsrc id) s = .refused .setSourceAfterFirstTick)

/-- R121, example: after `SB.SETSRC id` the next T1 stores the level of line `id`. -/
def Obligations.SelectedLineIsSampled : Prop :=
  ∀ (s : State) (id : LineId) (w : CommandWord) (ws : List CommandWord) (rest : List Turn)
    (levels : LineLevels) (ls : List LineLevels),
    s.cfg.wf = true → s.ticked = false → s.tickOpen = false → s.head < s.cfg.capacity →
      w.toNat = 0x100 + id.toNat → s.commands = w :: ws → s.lines = levels :: ls →
      s.turns = .consumer :: .sampler :: rest →
        ∃ t, runSteps 2 s = .next t ∧ t.inputSel = id ∧ t.tickOpen = true ∧
          readSlot t.mem s.head = some (levels.getLsbD id.toNat)

/-- R122: the result is the one `n < CAPACITY` with `tail + n = head` modulo `CAPACITY`; nothing else
changes. -/
def Obligations.AvailReturnsPendingCount : Prop :=
  ∀ s : State, s.head < s.cfg.capacity → s.tail < s.cfg.capacity →
    ∃ n, n < s.cfg.capacity ∧ (s.tail + n) % s.cfg.capacity = s.head ∧ Returns .avail s s n

/-- R123: a drain of a written slot returns its bit and advances `tail`; the slot keeps its bit. -/
def Obligations.DrainReturnsStoredSample : Prop :=
  ∀ (s : State) (b : Bit), s.tail < s.cfg.capacity → readSlot s.mem s.tail = some b →
    Returns .drain s { s with tail := wrapSucc s.cfg s.tail } b.toNat

/-- R123 (a), R41: a drain of a slot no tick has written completes too: some bit is returned (a free
value, entry 4) and `tail` advances. -/
def Obligations.DrainOfUnwrittenSlotCompletes : Prop :=
  ∀ s : State, s.tail < s.cfg.capacity → readSlot s.mem s.tail = none →
    ∃ b : Bit,
      Returns .drain s { s with tail := wrapSucc s.cfg s.tail, draws := s.draws + 1 } b.toNat

/-- R124, R71: `SB.RESET` outside a tick clears both pointers and nothing else; executed while a tick
is open it changes nothing at all (the consumer waits, entry 11). -/
def Obligations.BufferResetClearsPointersOrWaits : Prop :=
  ∀ s : State,
    (s.tickOpen = false → ReturnsNothing .sbReset s { s with head := 0, tail := 0 }) ∧
      (s.tickOpen = true → exec .sbReset s = .next s)

/-- R70: the snapshot between T1 and T2 sees the old count; after T2 it is one more, modulo
`CAPACITY`. -/
def Obligations.SnapshotCountsOnlyFinishedTicks : Prop :=
  ∀ (s : State) (d : Bit),
    s.tickOpen = false → s.head < s.cfg.capacity → s.tail < s.cfg.capacity →
      ∃ t, execResults [.tick d, .avail, .tick d, .avail] s =
        some (t, [s.result, availableCount s, availableCount s,
          (availableCount s + 1) % s.cfg.capacity])

/-- R125: from an empty buffer, `N <= CAPACITY` completed ticks and then `N` drains return the levels
in order. -/
def Obligations.DrainsAreFirstInFirstOut : Prop :=
  ∀ (s : State) (ds : List Bit),
    s.tickOpen = false → s.head < s.cfg.capacity → s.tail = s.head →
      ds.length ≤ s.cfg.capacity →
        ∃ t u, execAll (fullTicks ds) s = .next t ∧
          execResults (List.replicate ds.length .drain) t = some (u, ds.map Bool.toNat) ∧
          (ds.length < s.cfg.capacity → availableCount t = ds.length) ∧ availableCount u = 0

/-- R125, its last sentence: from an empty buffer, the sub-steps of ticks, drains and other operations
of the consumer (neither `SB.RESET` nor `SB.SETSRC`) may be interleaved in any way: as long as no
drain runs ahead of the completed ticks and never more than `CAPACITY - 1` samples are unread, the
`j`-th drain returns the level of the `j`-th tick, and the count at the end is what is unread. -/
def Obligations.InterleavedDrainsAreFirstInFirstOut : Prop :=
  ∀ (s : State) (ops : List Instr),
    s.tickOpen = false → s.head < s.cfg.capacity → s.tail = s.head → s.bitIndex ≤ 128 →
      (∀ i ∈ ops, keepsQueue i = true) →
      (∀ k, k ≤ ops.length →
        drains (ops.take k) ≤ ticksDone false (ops.take k) ∧
          NoOverrun s.cfg (ticksDone false (ops.take k) - drains (ops.take k)) 0) →
        ∃ t, drainResults ops s =
            some (t, ((tickLevels false ops).take (drains ops)).map Bool.toNat) ∧
          availableCount t = ticksDone false ops - drains ops

/-- R126: after any number of ticks the count is the true backlog modulo `CAPACITY`, and each slot
holds the most recent bit written there. -/
def Obligations.OverrunWrapsSilently : Prop :=
  ∀ (s : State) (ds : List Bit),
    s.tickOpen = false → s.head < s.cfg.capacity → s.tail = s.head →
      ∃ t, execAll (fullTicks ds) s = .next t ∧ t.tail = s.tail ∧
        availableCount t = ds.length % s.cfg.capacity ∧
        ∀ j, j < s.cfg.capacity → j < ds.length →
          readSlot t.mem ((s.tail + j) % s.cfg.capacity) =
            ds[j + s.cfg.capacity * ((ds.length - 1 - j) / s.cfg.capacity)]?

/-- R245: the tick that makes `CAPACITY` samples unread makes the buffer read empty, and is marked
`OverrunWrap` (R215; the place of the mark is the model's, entry 19). -/
def Obligations.FullLooksEmpty : Prop :=
  ∀ (s : State) (d : Bit),
    s.tickOpen = true → s.head < s.cfg.capacity → s.tail < s.cfg.capacity →
      availableCount s = s.cfg.capacity - 1 →
        instrConditions (.tick d) s = [.overrunWrap] ∧
          ∃ t, exec (.tick d) s = .next t ∧ availableCount t = 0 ∧ t.tail = s.tail

/-- R123 (a), R214: a drain with nothing pending is marked `Underflow`, completes, and leaves
`CAPACITY - 1` phantom samples. -/
def Obligations.UnderflowLeavesPhantoms : Prop :=
  ∀ s : State, s.head < s.cfg.capacity → s.tail = s.head →
    instrConditions .drain s = [.underflow] ∧
      ∃ t, exec .drain s = .next t ∧ availableCount t = s.cfg.capacity - 1 ∧ t.head = s.head ∧
        t.mem = s.mem

/-- R244: as many drains as were counted are served, one count each. The same with the sub-steps of
ticks and other operations of the consumer (neither `SB.RESET` nor `SB.SETSRC`) in any order between
the count and the drains, as long as no overrun wrap falls among them: no drain meets an empty
buffer, and each returns the sample that stood in its slot at the count. -/
def Obligations.CountedDrainsAreServed : Prop :=
  (∀ (s : State) (n : Nat),
    s.head < s.cfg.capacity → s.tail < s.cfg.capacity → n ≤ availableCount s →
      ∃ t vs, execResults (List.replicate n .drain) s = some (t, vs) ∧ vs.length = n ∧
        t.head = s.head ∧ t.mem = s.mem ∧ availableCount t = availableCount s - n) ∧
    (∀ (s : State) (ops : List Instr),
      s.head < s.cfg.capacity → s.tail < s.cfg.capacity → s.bitIndex ≤ 128 →
        (∀ i ∈ ops, keepsQueue i = true) → drains ops ≤ availableCount s →
        NoOverrun s.cfg (availableCount s) (ticksDone s.tickOpen ops) →
          (∃ t vs, drainResults ops s = some (t, vs) ∧ vs.length = drains ops ∧
            availableCount t = availableCount s + ticksDone s.tickOpen ops - drains ops ∧
            ∀ j b, j < drains ops →
              readSlot s.mem ((s.tail + j) % s.cfg.capacity) = some b →
                vs[j]? = some b.toNat) ∧
            ∀ pre post, ops = pre ++ .drain :: post →
              ∃ u, execAll pre s = .next u ∧ DrainHasSample u)

/-- R81: a drain that has a sample to return may be moved before, into, or after a tick. -/
def Obligations.DrainCommutesWithTick : Prop :=
  ∀ (s : State) (d : Bit),
    s.tickOpen = false → s.head < s.cfg.capacity → s.tail < s.cfg.capacity →
      DrainHasSample s →
        ∃ t, execAll [.tick d, .drain, .tick d] s = .next t ∧
          execAll [.drain, .tick d, .tick d] s = .next t ∧
          execAll [.tick d, .tick d, .drain] s = .next t

/-- R60, R171: an index outside its space names no cell: the model faults there (its own choice,
entry 15). The message cell is addressed by a short pulse in the first half and by a long pulse in
the second; and no operation faults while the three indices lie in their spaces. -/
def Obligations.IndexOutsideItsSpaceFaults : Prop :=
  (∀ (s : State) (d : Bit), s.tickOpen = false → s.cfg.capacity ≤ s.head →
      exec (.tick d) s = .fault .sampleSlotOutOfRange) ∧
    (∀ s : State, s.cfg.capacity ≤ s.tail → exec .drain s = .fault .sampleSlotOutOfRange) ∧
    (∀ (s : State) (b : Bit), 128 < s.bitIndex → b ≠ s.lastLevel → s.phase = false →
      s.cfg.minRun < s.runLength → s.runLength < s.cfg.maxRun →
        exec (.sample b) s = .fault .messageCellOutOfRange) ∧
    (∀ (s : State) (b : Bit), 128 < s.bitIndex → b ≠ s.lastLevel → s.phase = true →
      s.cfg.maxRun < s.runLength → s.runLength < 2 * s.cfg.maxRun →
        exec (.sample b) s = .fault .messageCellOutOfRange) ∧
    (∀ (i : Instr) (s : State) (r : Fault),
      s.head < s.cfg.capacity → s.tail < s.cfg.capacity → s.bitIndex ≤ 128 →
        exec i s ≠ .fault r)

/-! ### Demodulator (41_demodulator.md) -/

/-- R151: a sample that arrives when the message is complete changes nothing. -/
def Obligations.SampleIgnoredWhenComplete : Prop :=
  ∀ (b : Bit) (s : State), s.bitIndex = 128 → ReturnsNothing (.sample b) s s

/-- R152, R77: a sample equal to `last_level` counts, up to the counter's last value. -/
def Obligations.SampleOfSameLevelCounts : Prop :=
  ∀ s : State, s.bitIndex ≠ 128 →
    ReturnsNothing (.sample s.lastLevel) s
      { s with
        runLength := if s.runLength < 2 ^ s.cfg.rlW - 1 then s.runLength + 1 else s.runLength }

/-- R154: the three classes and their windows. -/
def Obligations.ClassificationWindows : Prop :=
  ∀ (c : Cfg) (l : Nat), c.wf = true →
    (classify c l = .short ↔ c.minRun + 1 ≤ l ∧ l ≤ c.maxRun - 1) ∧
      (classify c l = .long ↔ c.maxRun + 1 ≤ l ∧ l ≤ 2 * c.maxRun - 1) ∧
      (classify c l = .other ↔ l ≤ c.minRun ∨ l = c.maxRun ∨ 2 * c.maxRun ≤ l)

/-- R77: the saturated counter classifies as the true count of samples would. -/
def Obligations.SaturationIsInvisible : Prop :=
  ∀ (c : Cfg) (n : Nat), c.wf = true → classify c ((satInc c)^[n] 0) = classify c n

/-- R155: a short pulse in the first half, the correction of R160 not firing, appends the level held
before the transition and starts the second half. -/
def Obligations.ShortPulseFirstHalfAppends : Prop :=
  ∀ (b : Bit) (s : State),
    s.bitIndex < 128 → b ≠ s.lastLevel → s.cfg.minRun < s.runLength →
      s.runLength < s.cfg.maxRun → s.phase = false →
      ¬(s.cfg.fixEn = true ∧ s.bitIndex = 9 ∧ s.lastLevel = true) →
        ∃ m, CellWritten s.msg m s.bitIndex s.lastLevel ∧
          ReturnsNothing (.sample b) s
            { s with
              msg := m, bitIndex := s.bitIndex + 1, phase := true, runLength := 0, lastLevel := b }

/-- R160: where its five conditions hold at a transition, cells 9 and 10 are both written 1; and no
sample appends two bits anywhere else. -/
def Obligations.BitNineCorrectionAppendsTwice : Prop :=
  (∀ (b : Bit) (s : State),
    s.cfg.fixEn = true → s.bitIndex = 9 → s.lastLevel = true → b ≠ s.lastLevel →
      s.cfg.minRun < s.runLength → s.runLength < s.cfg.maxRun → s.phase = false →
        ∃ m m', CellWritten s.msg m 9 true ∧ CellWritten m m' 10 true ∧
          ReturnsNothing (.sample b) s
            { s with msg := m', bitIndex := 11, phase := true, runLength := 0, lastLevel := b }) ∧
    (∀ (b : Bit) (s t : State), s.bitIndex ≤ 128 → exec (.sample b) s = .next t →
      t.bitIndex = s.bitIndex + 2 →
        b ≠ s.lastLevel ∧ s.cfg.fixEn = true ∧
          (s.cfg.minRun < s.runLength ∧ s.runLength < s.cfg.maxRun) ∧ s.phase = false ∧
          s.bitIndex = 9 ∧ s.lastLevel = true)

/-- R156: a short pulse in the second half only ends it. -/
def Obligations.ShortPulseSecondHalfTogglesPhase : Prop :=
  ∀ (b : Bit) (s : State),
    s.bitIndex ≠ 128 → b ≠ s.lastLevel → s.cfg.minRun < s.runLength →
      s.runLength < s.cfg.maxRun → s.phase = true →
        ReturnsNothing (.sample b) s { s with phase := false, runLength := 0, lastLevel := b }

/-- R157: a long pulse in the second half appends one bit and stays in the second half. -/
def Obligations.LongPulseSecondHalfAppends : Prop :=
  ∀ (b : Bit) (s : State),
    s.bitIndex < 128 → b ≠ s.lastLevel → s.cfg.maxRun < s.runLength →
      s.runLength < 2 * s.cfg.maxRun → s.phase = true →
        ∃ m, CellWritten s.msg m s.bitIndex s.lastLevel ∧
          ReturnsNothing (.sample b) s
            { s with msg := m, bitIndex := s.bitIndex + 1, runLength := 0, lastLevel := b }

/-- R158: a long pulse in the first half is a full reset, whatever `bit_index` was. -/
def Obligations.LongPulseFirstHalfClears : Prop :=
  ∀ (b : Bit) (s : State),
    s.bitIndex ≠ 128 → b ≠ s.lastLevel → s.cfg.maxRun < s.runLength →
      s.runLength < 2 * s.cfg.maxRun → s.phase = false →
        ReturnsNothing (.sample b) s
          { s with bitIndex := 0, phase := false, runLength := 0, msg := 0#128, lastLevel := b }

/-- R159, R154: a run in no window is a full reset, whatever `phase` and `bit_index` were. -/
def Obligations.RunInNoWindowClears : Prop :=
  ∀ (b : Bit) (s : State), s.cfg.wf = true →
    s.bitIndex ≠ 128 → b ≠ s.lastLevel →
      (s.runLength ≤ s.cfg.minRun ∨ s.runLength = s.cfg.maxRun ∨
          2 * s.cfg.maxRun ≤ s.runLength) →
        ReturnsNothing (.sample b) s
          { s with bitIndex := 0, phase := false, runLength := 0, msg := 0#128, lastLevel := b }

/-- R211: `Desync` is marked in exactly the two places of R158 and R159. -/
def Obligations.DesyncMarkedExactly : Prop :=
  ∀ (b : Bit) (s : State), s.cfg.wf = true →
    (instrConditions (.sample b) s = [.desync] ↔
      s.bitIndex ≠ 128 ∧ b ≠ s.lastLevel ∧
        ((s.runLength ≤ s.cfg.minRun ∨ s.runLength = s.cfg.maxRun ∨
            2 * s.cfg.maxRun ≤ s.runLength) ∨
          (s.phase = false ∧ s.cfg.maxRun < s.runLength ∧ s.runLength < 2 * s.cfg.maxRun)))

/-- R78, R171: every sample completes with `bit_index <= 128`, and `bit_index` stays, grows by one or
two, or drops to 0. -/
def Obligations.SampleCompletesWithinMessage : Prop :=
  ∀ (b : Bit) (s : State), s.bitIndex ≤ 128 →
    ∃ t, exec (.sample b) s = .next t ∧ t.bitIndex ≤ 128 ∧
      (t.bitIndex = s.bitIndex ∨ t.bitIndex = s.bitIndex + 1 ∨ t.bitIndex = s.bitIndex + 2 ∨
        t.bitIndex = 0)

/-- R162, R161: what a sample leaves: nothing outside the Demodulator and the bus; the bits decoded
so far, unless the message is discarded; and `last_level` is the sample unless frozen. -/
def Obligations.SampleFrame : Prop :=
  ∀ (b : Bit) (s t : State), exec (.sample b) s = .next t →
    t = { s with
          lastLevel := t.lastLevel, runLength := t.runLength, phase := t.phase,
          bitIndex := t.bitIndex, msg := t.msg, result := t.result,
          resultDefined := false, draws := s.draws + 1 } ∧
      (s.bitIndex ≤ t.bitIndex → ∀ i, i < s.bitIndex → msgCell t.msg i = msgCell s.msg i) ∧
      (s.bitIndex ≠ 128 → t.lastLevel = b)

/-- R164: `DM.RESET` clears all Demodulator state and nothing else. -/
def Obligations.DemodResetClearsDemodulator : Prop :=
  ∀ s : State,
    ReturnsNothing .dmReset s
      { s with bitIndex := 0, phase := false, runLength := 0, lastLevel := false, msg := 0#128 }

/-- R165: `DM.BITS` returns `bit_index` and changes nothing. -/
def Obligations.BitsReturnsBitIndex : Prop :=
  ∀ s : State, Returns .bits s s s.bitIndex

/-- R62, R166: `DM.MSGB k` returns a byte whose bit `7 - i` is `MSG[8k + i]`, for every decoded cell;
nothing is said of the cells at or above `bit_index` (93 U4, entry 16). -/
def Obligations.MessageByteIsMostSignificantFirst : Prop :=
  ∀ (k : BitVec 4) (s : State),
    ∃ n, n < 256 ∧ Returns (.msgb k) s s n ∧
      ∀ i, i < 8 → 8 * k.toNat + i < s.bitIndex →
        n.testBit (7 - i) = msgCell s.msg (8 * k.toNat + i)

/-- R33: a completed message, and all Demodulator state with it, is stable under every operation but
`DM.RESET`. -/
def Obligations.CompleteMessageIsFrozen : Prop :=
  ∀ (i : Instr) (s t : State), s.bitIndex = 128 → i ≠ .dmReset → exec i s = .next t →
    t.bitIndex = s.bitIndex ∧ t.msg = s.msg ∧ t.phase = s.phase ∧
      t.runLength = s.runLength ∧ t.lastLevel = s.lastLevel

/-- R170: the round trip. Every message encoded as R169 says, with a half-symbol that fits the run
parameters and a long enough lead-in, is decoded whole, at the sample the rule names, if the
correction is off or bits 8 and 9 are not both 1. -/
def Obligations.EncodedMessageIsDecoded : Prop :=
  ∀ (s : State) (m : BitVec 128) (h g : Nat),
    s.cfg.wf = true → DemodFresh s → HalfSymbolFits s.cfg h → 2 * s.cfg.maxRun + 1 ≤ g →
      (s.cfg.fixEn = false ∨ ¬(msgCell m 8 = true ∧ msgCell m 9 = true)) →
        ∃ t u v,
          execAll (((encodeBits h g (messageBits m)).take (g + 255 * h)).map .sample) s
              = .next t ∧ t.bitIndex = 127 ∧
            execAll (((encodeBits h g (messageBits m)).take (g + 255 * h + 1)).map .sample) s
              = .next u ∧ u.bitIndex = 128 ∧ u.msg = m ∧
            execAll ((encodeBits h g (messageBits m)).map .sample) s = .next v ∧
            v.bitIndex = 128 ∧ v.msg = m

/-- R170: where the correction is on and bits 8 and 9 are both 1, the message is decoded with one
more 1 at position 9, and completion comes one symbol early. -/
def Obligations.CorrectionShiftsEncodedMessage : Prop :=
  ∀ (s : State) (m : BitVec 128) (h g : Nat),
    s.cfg.wf = true → DemodFresh s → HalfSymbolFits s.cfg h → 2 * s.cfg.maxRun + 1 ≤ g →
      s.cfg.fixEn = true → msgCell m 8 = true → msgCell m 9 = true →
        ∃ t u v,
          execAll (((encodeBits h g (messageBits m)).take (g + 253 * h)).map .sample) s
              = .next t ∧ t.bitIndex = 127 ∧
            execAll (((encodeBits h g (messageBits m)).take (g + 253 * h + 1)).map .sample) s
              = .next u ∧ u.bitIndex = 128 ∧
            execAll ((encodeBits h g (messageBits m)).map .sample) s = .next v ∧
            v.bitIndex = 128 ∧ v.msg = u.msg ∧
            ∀ i, i < 128 → msgCell u.msg i =
              if i ≤ 8 then msgCell m i else if i = 9 then true else msgCell m (i - 1)

/-! ### The drain sequencer (42_sequencer.md) -/

/-- R190: a pass takes one count and tests it, strictly, before any drain: a backlog goes to
`RECOVER` and is marked; otherwise the pass makes as many drains as were counted. -/
def Obligations.PassTestsBacklogFirst : Prop :=
  ∀ (s : State) (rest : List Turn),
    s.cfg.wf = true → s.turns = .consumer :: rest → s.commands = [] →
      s.sequencer = some .count →
        ∃ t, step s = .next t ∧ t.result = availableCount s ∧ t.turns = rest ∧
          t.tail = s.tail ∧ t.head = s.head ∧
          (s.cfg.threshold < availableCount s →
            t.sequencer = some .flushBuffer ∧ stepConditions s = [.backlog]) ∧
          (availableCount s ≤ s.cfg.threshold → stepConditions s = [] ∧
            (availableCount s = 0 → t.sequencer = some .count) ∧
            (availableCount s ≠ 0 → t.sequencer = some (.drain (availableCount s))))

/-- R190: one turn of the drain loop. The bit drained is the bit fed to the Demodulator, and
completion is tested right after it. -/
def Obligations.PassFeedsEachDrainedSample : Prop :=
  ∀ (s : State) (rest : List Turn) (left : Nat) (b : Bit),
    s.cfg.wf = true → s.turns = .consumer :: .consumer :: .consumer :: rest →
      s.commands = [] → s.sequencer = some (.drain (left + 1)) → s.tail < s.cfg.capacity →
      readSlot s.mem s.tail = some b → s.bitIndex ≤ 128 →
        ∃ t u, exec (.sample b) s = .next t ∧ runSteps 3 s = .next u ∧
          u.tail = wrapSucc s.cfg s.tail ∧ u.head = s.head ∧ u.turns = rest ∧
          u.bitIndex = t.bitIndex ∧ u.msg = t.msg ∧ u.phase = t.phase ∧
          u.runLength = t.runLength ∧ u.lastLevel = t.lastLevel ∧
          u.result = t.bitIndex ∧
          (t.bitIndex = 128 → u.sequencer = some (.deliver left [])) ∧
          (t.bitIndex ≠ 128 → u.sequencer = some (if left = 0 then .count else .drain left))

/-- R191: `RECOVER` outside a tick empties the buffer and resets the Demodulator, and leaves the store
and the selected line as they were. The sequencer does the same in two consumer turns, and goes back
to the start of a pass; while a tick is open it waits before the first; and from between the two it
resets the Demodulator alone, whatever the ticks have done to the buffer meanwhile. -/
def Obligations.RecoverFlushesBothUnits : Prop :=
  (∀ s : State, s.tickOpen = false →
    ∃ t, execAll recoverOps s = .next t ∧ t.head = 0 ∧ t.tail = 0 ∧ availableCount t = 0 ∧
      DemodFresh t ∧ t.mem = s.mem ∧ t.inputSel = s.inputSel ∧ t.cfg = s.cfg ∧
      t.tickOpen = false) ∧
    (∀ (s : State) (rest : List Turn),
      s.cfg.wf = true → s.commands = [] → s.sequencer = some .flushBuffer →
        (s.tickOpen = false → s.turns = .consumer :: .consumer :: rest →
          ∃ t, runSteps 2 s = .next t ∧ t.head = 0 ∧ t.tail = 0 ∧ availableCount t = 0 ∧
            DemodFresh t ∧ t.mem = s.mem ∧ t.inputSel = s.inputSel ∧ t.cfg = s.cfg ∧
            t.tickOpen = false ∧ t.sequencer = some .count ∧ t.commands = [] ∧
            t.turns = rest ∧ t.delivered = s.delivered) ∧
          (s.tickOpen = false → s.turns = .consumer :: rest →
            ∃ t, step s = .next t ∧ t.head = 0 ∧ t.tail = 0 ∧ t.mem = s.mem ∧
              t.tickOpen = false ∧ t.sequencer = some .flushDemod ∧ t.commands = [] ∧
              t.turns = rest) ∧
          (s.tickOpen = true → s.turns = .consumer :: rest →
            step s = .next { s with turns := rest })) ∧
    (∀ (s : State) (rest : List Turn),
      s.cfg.wf = true → s.commands = [] → s.sequencer = some .flushDemod →
        s.turns = .consumer :: rest →
          ∃ t, step s = .next t ∧ DemodFresh t ∧ t.head = s.head ∧ t.tail = s.tail ∧
            t.mem = s.mem ∧ t.tickOpen = s.tickOpen ∧ t.inputSel = s.inputSel ∧
            t.sequencer = some .count ∧ t.commands = [] ∧ t.turns = rest)

/-- R192: at the hand-over the consumer waits, however long the sink's publish fails (marked
`TransportFailure`, R213); only the sink's copy lets it go on to `DM.RESET`. -/
def Obligations.HandOverWaitsForSink : Prop :=
  ∀ (s : State) (rest : List Turn) (left : Nat) (offered : List Byte),
    s.cfg.wf = true → s.commands = [] → s.sequencer = some (.handOver left offered) →
      (s.turns = .consumer :: rest → step s = .next { s with turns := rest }) ∧
        (s.turns = .sink false :: rest →
          step s = .next { s with turns := rest } ∧ stepConditions s = [.transportFailure]) ∧
        (s.turns = .sink true :: rest →
          step s = .next { s with
            turns := rest, delivered := s.delivered ++ [offered],
            sequencer := some (.release left) })

/-- R190, R192: once the message is complete the sequencer reads its 16 bytes, byte 0 first, hands
them to the sink and only then resets the Demodulator; the Sample Buffer is not touched. -/
def Obligations.CompleteMessageIsDelivered : Prop :=
  ∀ (s : State) (rest : List Turn) (left : Nat),
    s.cfg.wf = true → s.commands = [] → s.sequencer = some (.check left) → s.bitIndex = 128 →
      s.turns = List.replicate 17 .consumer ++ .sink true :: .consumer :: rest →
        ∃ t, runSteps 19 s = .next t ∧
          t.delivered = s.delivered ++ [(List.range 16).map (msgByte s.msg)] ∧ DemodFresh t ∧
          t.head = s.head ∧ t.tail = s.tail ∧ t.mem = s.mem ∧ t.turns = rest ∧
          t.sequencer = some (if left = 0 then .count else .drain left)

/-! ### The machine as a whole -/

/-- R20 to R31, R171: every step keeps the invariant (indices in range, the store canonical, the
counter within its width, `bit_index <= 128`, the cells above it clear, the hand-over in progress that
of the completed message). -/
def Obligations.EveryStepKeepsInvariant : Prop :=
  ∀ s t : State, Invariant s → step s = .next t → Invariant t

/-- R39, R40: the invariant holds after power-on under every legal configuration, and so after
reset. -/
def Obligations.PowerOnMeetsInvariant : Prop :=
  (∀ c : Cfg, c.wf = true → Invariant (State.powerOn c)) ∧ Invariant State.reset

/-- R210: from a state that meets the invariant no step faults. -/
def Obligations.NoStepFaultsUnderInvariant : Prop :=
  ∀ (s : State) (r : Fault), Invariant s → step s ≠ .fault r

/-- R193: under the sequencer alone the machine never stops, whatever the ticks, the lines and the
sink do. -/
def Obligations.SequencerNeverStops : Prop :=
  ∀ s : State, Invariant s → s.commands = [] → ∃ t, step s = .next t ∧ t.commands = []

/-- R15: no step changes the configuration. -/
def Obligations.ConfigurationIsConstant : Prop :=
  ∀ s t : State, step s = .next t → t.cfg = s.cfg

/-- R23, R37, R243: each element of the state is written only by the operations that own it: the
store and `tick_open` by `TICK`, `head` by `TICK` and `SB.RESET`, `tail` by `SB.DRAIN` and `SB.RESET`,
`input_sel` by `SB.SETSRC`, the Demodulator by `DM.SAMPLE` and `DM.RESET`. -/
def Obligations.StateIsWrittenByItsOwners : Prop :=
  ∀ (i : Instr) (s t : State), exec i s = .next t →
    ((∀ d, i ≠ .tick d) → t.mem = s.mem ∧ t.tickOpen = s.tickOpen) ∧
      ((∀ d, i ≠ .tick d) → i ≠ .sbReset → t.head = s.head) ∧
      (i ≠ .drain → i ≠ .sbReset → t.tail = s.tail) ∧
      ((∀ id, i ≠ .setsrc id) → t.inputSel = s.inputSel) ∧
      ((∀ b, i ≠ .sample b) → i ≠ .dmReset →
        t.bitIndex = s.bitIndex ∧ t.msg = s.msg ∧ t.phase = s.phase ∧
          t.runLength = s.runLength ∧ t.lastLevel = s.lastLevel)

/-- R67: `SB.SETSRC`, `SB.RESET` and `DM.RESET`, done twice in a row, leave what the first left (but
for the undefined value on the bus). -/
def Obligations.ResetsAreIdempotent : Prop :=
  ∀ (i : Instr) (s : State),
    (i = .sbReset ∧ s.tickOpen = false) ∨ i = .dmReset ∨
        ((∃ id, i = .setsrc id) ∧ s.ticked = false) →
      ∃ t u, exec i s = .next t ∧ exec i t = .next u ∧
        u = { t with result := u.result, draws := u.draws }
end

