-- ==== Sys2Proof/Laws/State.lean ====
section
/-!
SUPPORT. The fields of State after each named update: one lemma per field, each true by rfl, so that
no proof unfolds a record update.
-/

namespace Sys2Proof.Machine

section
variable (s : State) (v : Nat) (c : Cfg)

/-! ### State.returning -/

@[simp] theorem State.returning_cfg : (s.returning v).cfg = s.cfg := rfl
@[simp] theorem State.returning_head : (s.returning v).head = s.head := rfl
@[simp] theorem State.returning_tail : (s.returning v).tail = s.tail := rfl
@[simp] theorem State.returning_mem : (s.returning v).mem = s.mem := rfl
@[simp] theorem State.returning_inputSel : (s.returning v).inputSel = s.inputSel := rfl
@[simp] theorem State.returning_tickOpen : (s.returning v).tickOpen = s.tickOpen := rfl
@[simp] theorem State.returning_lastLevel : (s.returning v).lastLevel = s.lastLevel := rfl
@[simp] theorem State.returning_runLength : (s.returning v).runLength = s.runLength := rfl
@[simp] theorem State.returning_phase : (s.returning v).phase = s.phase := rfl
@[simp] theorem State.returning_bitIndex : (s.returning v).bitIndex = s.bitIndex := rfl
@[simp] theorem State.returning_msg : (s.returning v).msg = s.msg := rfl
@[simp] theorem State.returning_result : (s.returning v).result = v := rfl
@[simp] theorem State.returning_resultDefined : (s.returning v).resultDefined = true := rfl
@[simp] theorem State.returning_ticked : (s.returning v).ticked = s.ticked := rfl
@[simp] theorem State.returning_draws : (s.returning v).draws = s.draws := rfl
@[simp] theorem State.returning_turns : (s.returning v).turns = s.turns := rfl
@[simp] theorem State.returning_lines : (s.returning v).lines = s.lines := rfl
@[simp] theorem State.returning_commands : (s.returning v).commands = s.commands := rfl
@[simp] theorem State.returning_sequencer : (s.returning v).sequencer = s.sequencer := rfl
@[simp] theorem State.returning_delivered : (s.returning v).delivered = s.delivered := rfl

/-! ### State.returningNothing -/

@[simp] theorem State.returningNothing_cfg : (s.returningNothing).cfg = s.cfg := rfl
@[simp] theorem State.returningNothing_head : (s.returningNothing).head = s.head := rfl
@[simp] theorem State.returningNothing_tail : (s.returningNothing).tail = s.tail := rfl
@[simp] theorem State.returningNothing_mem : (s.returningNothing).mem = s.mem := rfl
@[simp] theorem State.returningNothing_inputSel : (s.returningNothing).inputSel = s.inputSel := rfl
@[simp] theorem State.returningNothing_tickOpen : (s.returningNothing).tickOpen = s.tickOpen := rfl
@[simp] theorem State.returningNothing_lastLevel : (s.returningNothing).lastLevel = s.lastLevel := rfl
@[simp] theorem State.returningNothing_runLength : (s.returningNothing).runLength = s.runLength := rfl
@[simp] theorem State.returningNothing_phase : (s.returningNothing).phase = s.phase := rfl
@[simp] theorem State.returningNothing_bitIndex : (s.returningNothing).bitIndex = s.bitIndex := rfl
@[simp] theorem State.returningNothing_msg : (s.returningNothing).msg = s.msg := rfl
@[simp] theorem State.returningNothing_result : (s.returningNothing).result = undefinedResult s.cfg s.draws := rfl
@[simp] theorem State.returningNothing_resultDefined : (s.returningNothing).resultDefined = false := rfl
@[simp] theorem State.returningNothing_ticked : (s.returningNothing).ticked = s.ticked := rfl
@[simp] theorem State.returningNothing_draws : (s.returningNothing).draws = s.draws + 1 := rfl
@[simp] theorem State.returningNothing_turns : (s.returningNothing).turns = s.turns := rfl
@[simp] theorem State.returningNothing_lines : (s.returningNothing).lines = s.lines := rfl
@[simp] theorem State.returningNothing_commands : (s.returningNothing).commands = s.commands := rfl
@[simp] theorem State.returningNothing_sequencer : (s.returningNothing).sequencer = s.sequencer := rfl
@[simp] theorem State.returningNothing_delivered : (s.returningNothing).delivered = s.delivered := rfl

/-! ### State.cleared -/

@[simp] theorem State.cleared_cfg : (s.cleared).cfg = s.cfg := rfl
@[simp] theorem State.cleared_head : (s.cleared).head = s.head := rfl
@[simp] theorem State.cleared_tail : (s.cleared).tail = s.tail := rfl
@[simp] theorem State.cleared_mem : (s.cleared).mem = s.mem := rfl
@[simp] theorem State.cleared_inputSel : (s.cleared).inputSel = s.inputSel := rfl
@[simp] theorem State.cleared_tickOpen : (s.cleared).tickOpen = s.tickOpen := rfl
@[simp] theorem State.cleared_lastLevel : (s.cleared).lastLevel = s.lastLevel := rfl
@[simp] theorem State.cleared_runLength : (s.cleared).runLength = 0 := rfl
@[simp] theorem State.cleared_phase : (s.cleared).phase = false := rfl
@[simp] theorem State.cleared_bitIndex : (s.cleared).bitIndex = 0 := rfl
@[simp] theorem State.cleared_msg : (s.cleared).msg = 0#128 := rfl
@[simp] theorem State.cleared_result : (s.cleared).result = s.result := rfl
@[simp] theorem State.cleared_resultDefined : (s.cleared).resultDefined = s.resultDefined := rfl
@[simp] theorem State.cleared_ticked : (s.cleared).ticked = s.ticked := rfl
@[simp] theorem State.cleared_draws : (s.cleared).draws = s.draws := rfl
@[simp] theorem State.cleared_turns : (s.cleared).turns = s.turns := rfl
@[simp] theorem State.cleared_lines : (s.cleared).lines = s.lines := rfl
@[simp] theorem State.cleared_commands : (s.cleared).commands = s.commands := rfl
@[simp] theorem State.cleared_sequencer : (s.cleared).sequencer = s.sequencer := rfl
@[simp] theorem State.cleared_delivered : (s.cleared).delivered = s.delivered := rfl

/-! ### Power-on (10_state.md R39 to R42) -/

@[simp] theorem State.powerOn_cfg : (State.powerOn c).cfg = c := rfl
@[simp] theorem State.powerOn_head : (State.powerOn c).head = 0 := rfl
@[simp] theorem State.powerOn_tail : (State.powerOn c).tail = 0 := rfl
@[simp] theorem State.powerOn_mem : (State.powerOn c).mem = [] := rfl
@[simp] theorem State.powerOn_inputSel : (State.powerOn c).inputSel = 0#8 := rfl
@[simp] theorem State.powerOn_tickOpen : (State.powerOn c).tickOpen = false := rfl
@[simp] theorem State.powerOn_lastLevel : (State.powerOn c).lastLevel = false := rfl
@[simp] theorem State.powerOn_runLength : (State.powerOn c).runLength = 0 := rfl
@[simp] theorem State.powerOn_phase : (State.powerOn c).phase = false := rfl
@[simp] theorem State.powerOn_bitIndex : (State.powerOn c).bitIndex = 0 := rfl
@[simp] theorem State.powerOn_msg : (State.powerOn c).msg = 0#128 := rfl
@[simp] theorem State.powerOn_result : (State.powerOn c).result = 0 := rfl
@[simp] theorem State.powerOn_resultDefined : (State.powerOn c).resultDefined = false := rfl
@[simp] theorem State.powerOn_ticked : (State.powerOn c).ticked = false := rfl
@[simp] theorem State.powerOn_draws : (State.powerOn c).draws = 0 := rfl
@[simp] theorem State.powerOn_turns : (State.powerOn c).turns = [] := rfl
@[simp] theorem State.powerOn_lines : (State.powerOn c).lines = [] := rfl
@[simp] theorem State.powerOn_commands : (State.powerOn c).commands = [] := rfl
@[simp] theorem State.powerOn_sequencer : (State.powerOn c).sequencer = none := rfl
@[simp] theorem State.powerOn_delivered : (State.powerOn c).delivered = [] := rfl

theorem State.reset_eq : State.reset = State.powerOn Config.example64 := rfl

end

end Sys2Proof.Machine
end

