-- ==== Sys2Proof/Laws/Memory.lean ====
section
/-!
SUPPORT. The sample store: what a read after a write sees, and that every operation on the store
keeps its canonical form.
-/

namespace Sys2Proof.Machine

/-- A slot read after a write: the bit written at its index, what stood there before elsewhere. -/
theorem readSlot_writeSlot (m : List Slot) (i j : Nat) (b : Bit) :
    readSlot (writeSlot m i b) j = if i = j then some b else readSlot m j := by
  induction m with
  | nil => simp [writeSlot, readSlot]
  | cons e rest ih =>
    obtain ⟨k, x⟩ := e
    simp only [writeSlot]
    split
    · by_cases h : i = j <;> simp [readSlot, h]
    · split
      · rename_i h
        subst h
        by_cases h : k = j <;> simp [readSlot, h]
      · rename_i h
        simp only [readSlot, ih]
        by_cases hk : k = j
        · have hi : i ≠ j := fun e => h (by rw [hk, e])
          simp [hk, hi]
        · simp [hk]

theorem slotsFrom_mono {cap lo lo' : Nat} {m : List Slot} (h : slotsFrom cap lo m = true)
    (hle : lo' ≤ lo) : slotsFrom cap lo' m = true := by
  cases m with
  | nil => rfl
  | cons e rest =>
    simp only [slotsFrom, Bool.and_eq_true, decide_eq_true_eq] at h ⊢
    exact ⟨⟨by omega, h.1.2⟩, h.2⟩

theorem slotsFrom_writeSlot {cap lo i : Nat} {m : List Slot} {b : Bit}
    (h : slotsFrom cap lo m = true) (hlo : lo ≤ i) (hi : i < cap) :
    slotsFrom cap lo (writeSlot m i b) = true := by
  induction m generalizing lo with
  | nil => simp [writeSlot, slotsFrom, hlo, hi]
  | cons e rest ih =>
    obtain ⟨k, x⟩ := e
    simp only [slotsFrom, Bool.and_eq_true, decide_eq_true_eq] at h
    simp only [writeSlot]
    split
    · simp only [slotsFrom, Bool.and_eq_true, decide_eq_true_eq]
      exact ⟨⟨hlo, hi⟩, ⟨by omega, h.1.2⟩, h.2⟩
    · split
      · rename_i hk
        subst hk
        simp only [slotsFrom, Bool.and_eq_true, decide_eq_true_eq]
        exact ⟨⟨hlo, hi⟩, h.2⟩
      · simp only [slotsFrom, Bool.and_eq_true, decide_eq_true_eq]
        exact ⟨⟨h.1.1, h.1.2⟩, ih h.2 (by omega)⟩

/-- Every write to a slot of the store keeps the canonical form. -/
theorem wf_writeSlot {c : Cfg} {m : List Slot} {i : Nat} {b : Bit} (h : Memory.wf c m = true)
    (hi : i < c.capacity) : Memory.wf c (writeSlot m i b) = true :=
  slotsFrom_writeSlot h (Nat.zero_le i) hi

/-- The store is in canonical form after power-on, and so after reset. -/
theorem wf_powerOn (c : Cfg) : Memory.wf c (State.powerOn c).mem = true := rfl

/-- An entry at or above the capacity does not exist in a canonical store. -/
theorem readSlot_eq_none {cap lo i : Nat} {m : List Slot} (h : slotsFrom cap lo m = true)
    (hi : cap ≤ i ∨ i < lo) : readSlot m i = none := by
  induction m generalizing lo with
  | nil => rfl
  | cons e rest ih =>
    obtain ⟨k, x⟩ := e
    simp only [slotsFrom, Bool.and_eq_true, decide_eq_true_eq] at h
    have hk : k ≠ i := by omega
    simp only [readSlot, hk, if_false]
    exact ih h.2 (by omega)

/-- Canonical stores that read alike are equal data. -/
theorem eq_of_readSlot_eq {cap lo : Nat} {m n : List Slot} (hm : slotsFrom cap lo m = true)
    (hn : slotsFrom cap lo n = true) (h : ∀ i, readSlot m i = readSlot n i) : m = n := by
  induction m generalizing lo n with
  | nil =>
    cases n with
    | nil => rfl
    | cons e _ =>
      have := h e.1
      simp [readSlot] at this
  | cons e rest ih =>
    obtain ⟨k, x⟩ := e
    simp only [slotsFrom, Bool.and_eq_true, decide_eq_true_eq] at hm
    cases n with
    | nil =>
      have := h k
      simp [readSlot] at this
    | cons e' rest' =>
      obtain ⟨k', x'⟩ := e'
      simp only [slotsFrom, Bool.and_eq_true, decide_eq_true_eq] at hn
      have hk : k = k' := by
        by_contra hne
        rcases Nat.lt_or_gt_of_ne hne with hlt | hlt
        · have := h k
          rw [readSlot, if_pos rfl, readSlot, if_neg (by omega),
            readSlot_eq_none hn.2 (Or.inr (by omega))] at this
          cases this
        · have := h k'
          rw [readSlot, if_neg (by omega), readSlot, if_pos rfl,
            readSlot_eq_none hm.2 (Or.inr (by omega))] at this
          cases this
      subst hk
      have hx : x = x' := by
        have := h k
        simpa [readSlot] using this
      subst hx
      refine congrArg _ (ih hm.2 hn.2 fun i => ?_)
      by_cases hi : k = i
      · subst hi
        rw [readSlot_eq_none hm.2 (Or.inr (by omega)), readSlot_eq_none hn.2 (Or.inr (by omega))]
      · simpa [readSlot, hi] using h i

/-- `MemRead`: the slot's own bit at no cost, or the next free bit for one draw. -/
theorem memRead_cases (s : State) (i : Nat) :
    (∃ b, readSlot s.mem i = some b ∧ memRead s i = (b, s.draws)) ∨
      (readSlot s.mem i = none ∧ memRead s i = (Config.freeBit s.draws, s.draws + 1)) := by
  unfold memRead
  cases h : readSlot s.mem i with
  | none => exact Or.inr ⟨rfl, rfl⟩
  | some b => exact Or.inl ⟨b, rfl, rfl⟩

end Sys2Proof.Machine
end

