-- ==== Sys2Proof/Laws/Message.lean ====
section
/-!
SUPPORT. The message array: what a cell reads after a cell is written, and which bit of which byte a
cell is.
-/

namespace Sys2Proof.Machine

/-- A message cell read after a cell of the message is written. -/
theorem msgCell_setMsgCell (m : BitVec 128) {i : Nat} (j : Nat) (b : Bit) (hi : i < 128) :
    msgCell (setMsgCell m i b) j = if i = j then b else msgCell m j := by
  unfold msgCell setMsgCell
  by_cases hj : j < 128
  · have e : 127 - j = 127 - i ↔ i = j := by omega
    cases b <;>
      by_cases h : i = j <;>
        simp [BitVec.getMsbD, hj, h] <;> omega
  · have hne : i ≠ j := by omega
    cases b <;> simp [BitVec.getMsbD, hj, hne]

/-- Every cell of the cleared message is 0. -/
@[simp] theorem msgCell_zero (i : Nat) : msgCell 0#128 i = false := by simp [msgCell]

/-- No cell lies at or above 128. -/
theorem msgCell_of_le {m : BitVec 128} {i : Nat} (h : 128 ≤ i) : msgCell m i = false := by
  simp [msgCell, BitVec.getMsbD, Nat.not_lt.mpr h]

theorem byteOfBits_getLsbD (b0 b1 b2 b3 b4 b5 b6 b7 : Bit) :
    (byteOfBits b0 b1 b2 b3 b4 b5 b6 b7).getLsbD 7 = b0 ∧
      (byteOfBits b0 b1 b2 b3 b4 b5 b6 b7).getLsbD 6 = b1 ∧
      (byteOfBits b0 b1 b2 b3 b4 b5 b6 b7).getLsbD 5 = b2 ∧
      (byteOfBits b0 b1 b2 b3 b4 b5 b6 b7).getLsbD 4 = b3 ∧
      (byteOfBits b0 b1 b2 b3 b4 b5 b6 b7).getLsbD 3 = b4 ∧
      (byteOfBits b0 b1 b2 b3 b4 b5 b6 b7).getLsbD 2 = b5 ∧
      (byteOfBits b0 b1 b2 b3 b4 b5 b6 b7).getLsbD 1 = b6 ∧
      (byteOfBits b0 b1 b2 b3 b4 b5 b6 b7).getLsbD 0 = b7 := by
  revert b0 b1 b2 b3 b4 b5 b6 b7
  decide

/-- A byte is below 256, so it fits the result bus. -/
theorem msgByte_lt (m : BitVec 128) (k : Nat) : (msgByte m k).toNat < 256 := (msgByte m k).isLt

/-- One more byte of the message. -/
theorem msgBytesTo_succ (m : BitVec 128) (n : Nat) :
    msgBytesTo m (n + 1) = msgBytesTo m n ++ [msgByte m n] := by
  simp [msgBytesTo, List.range_succ]

@[simp] theorem msgBytesTo_length (m : BitVec 128) (n : Nat) : (msgBytesTo m n).length = n := by
  simp [msgBytesTo]

end Sys2Proof.Machine
end

