-- ==== Sys2Proof/Laws/Ops.lean ====
section
/-!
SUPPORT. One lemma for each shared operation, saying once everything it can do.
-/

namespace Sys2Proof

/-! ### The configuration -/

theorem Cfg.capacity_pos (c : Cfg) : 0 < c.capacity := Nat.two_pow_pos c.ptrW

/-- The four legal ranges of a configuration (00_scope.md R6 to R10). -/
theorem Cfg.wf_iff (c : Cfg) :
    c.wf = true ↔ 1 ≤ c.ptrW ∧ c.threshold ≤ c.capacity - 1 ∧ c.minRun + 1 < c.maxRun ∧
      2 * c.maxRun ≤ c.runMax := by
  simp [Cfg.wf, Cfg.ptrWOk, Cfg.thresholdOk, Cfg.runWindowOk, Cfg.counterOk, and_assoc]

/-- Every slot index and every byte fits the result bus. -/
theorem Cfg.capacity_le_bus (c : Cfg) : c.capacity ≤ 2 ^ c.resW :=
  Nat.pow_le_pow_right (by decide) (Nat.le_max_left _ _)

theorem Cfg.byte_le_bus (c : Cfg) : 256 ≤ 2 ^ c.resW :=
  Nat.pow_le_pow_right (n := 2) (i := 8) (by decide) (Nat.le_max_right _ _)

end Sys2Proof

namespace Sys2Proof.Machine

/-! ### Chaining -/

@[simp] theorem andThen_next (s : State) (f : State → Answer) :
    andThen (.next s) f = f s := rfl

@[simp] theorem andThen_fault (r : Fault) (f : State → Answer) :
    andThen (.fault r) f = .fault r := rfl

@[simp] theorem andThen_refused (r : Refusal) (f : State → Answer) :
    andThen (.refused r) f = .refused r := rfl

/-- A chain answers a next state just where both halves do. -/
theorem andThen_eq_next {a : Answer} {f : State → Answer} {t : State} :
    andThen a f = .next t ↔ ∃ s, a = .next s ∧ f s = .next t := by
  cases a <;> simp

/-- A chain faults where its first half does, or its second after it. -/
theorem andThen_eq_fault {a : Answer} {f : State → Answer} {r : Fault} :
    andThen a f = .fault r ↔ a = .fault r ∨ ∃ s, a = .next s ∧ f s = .fault r := by
  cases a <;> simp

/-! ### Sizes -/

theorem undefinedResult_lt (c : Cfg) (n : Nat) : undefinedResult c n < 2 ^ c.resW :=
  Nat.mod_lt _ (Nat.two_pow_pos _)

/-! ### Pointers -/

/-- The next pointer is a slot index, whatever the pointer was. -/
theorem nextPointer_lt (c : Cfg) (p : Nat) : nextPointer c p < c.capacity :=
  Nat.mod_lt _ c.capacity_pos

/-- The next pointer: one more, or 0 from the last slot (20_memory.md R75). -/
theorem nextPointer_eq (c : Cfg) {p : Nat} (h : p < c.capacity) :
    nextPointer c p = if p + 1 = c.capacity then 0 else p + 1 := by
  unfold nextPointer
  split
  · next e => rw [e, Nat.mod_self]
  · exact Nat.mod_eq_of_lt (by omega)

/-- `available` of two slot indices: their distance, around the store when `head < tail` (R75). -/
theorem availableCount_eq {s : State} (hh : s.head < s.cfg.capacity)
    (ht : s.tail < s.cfg.capacity) :
    availableCount s =
      if s.tail ≤ s.head then s.head - s.tail else s.head + s.cfg.capacity - s.tail := by
  have hp := s.cfg.capacity_pos
  unfold availableCount
  split
  · next h =>
    rw [Int.emod_eq_of_lt (by omega) (by omega)]
    omega
  · next h =>
    rw [← Int.add_emod_right, Int.emod_eq_of_lt (by omega) (by omega)]
    omega

theorem availableCount_lt (s : State) : availableCount s < s.cfg.capacity := by
  have hp := s.cfg.capacity_pos
  have h1 := Int.emod_nonneg ((s.head : Int) - (s.tail : Int)) (b := (s.cfg.capacity : Int))
    (by omega)
  have h2 := Int.emod_lt_of_pos ((s.head : Int) - (s.tail : Int)) (b := (s.cfg.capacity : Int))
    (by omega)
  unfold availableCount
  omega

/-! ### The Demodulator -/

/-- `append` writes one cell and counts it, below 128; at 128 and above there is no cell (R162,
R171). -/
theorem append_cases (b : Bit) (s : State) :
    (s.bitIndex < 128 ∧ append b s =
        .next { s with msg := setMsgCell s.msg s.bitIndex b, bitIndex := s.bitIndex + 1 }) ∨
      (128 ≤ s.bitIndex ∧ append b s = .fault .messageCellOutOfRange) := by
  unfold append Config.msgBits
  by_cases h : s.bitIndex < 128
  · exact Or.inl ⟨h, by simp [h]⟩
  · exact Or.inr ⟨by omega, by simp [h]⟩

theorem append_next {b : Bit} {s : State} (h : s.bitIndex < 128) :
    append b s =
      .next { s with msg := setMsgCell s.msg s.bitIndex b, bitIndex := s.bitIndex + 1 } := by
  simp [append, Config.msgBits, h]

/-- The three classes and their windows (R154). -/
theorem classify_cases (c : Cfg) (l : Nat) :
    (classify c l = .short ∧ c.minRun < l ∧ l < c.maxRun) ∨
      (classify c l = .long ∧ c.maxRun < l ∧ l < 2 * c.maxRun) ∨
      (classify c l = .other ∧ ¬(c.minRun < l ∧ l < c.maxRun) ∧
        ¬(c.maxRun < l ∧ l < 2 * c.maxRun)) := by
  unfold classify
  split
  · next h => exact Or.inl ⟨rfl, h⟩
  · next h =>
    split
    · next h' => exact Or.inr (Or.inl ⟨rfl, h'⟩)
    · next h' => exact Or.inr (Or.inr ⟨rfl, h, h'⟩)

/-- The counter stays within its width, and grows by at most one (20_memory.md R77). -/
theorem satInc_le {c : Cfg} {v : Nat} (h : v ≤ c.runMax) :
    v ≤ satInc c v ∧ satInc c v ≤ c.runMax ∧ satInc c v ≤ v + 1 := by
  unfold satInc
  split <;> omega

/-- Only `SB.RESET` waits, and only for an open tick (20_memory.md R71, R73). -/
theorem waits_iff (i : Instr) (s : State) :
    waits i s = true ↔ i = .sbReset ∧ s.tickOpen = true := by
  simp [waits]

end Sys2Proof.Machine
end

