-- ==== Sys2Proof/Laws/Step.lean ====
section
/-!
SUPPORT. The step and runs of steps: what a step is under a legal configuration, how runs unfold, and
that a run is the host's run.
-/

namespace Sys2Proof.Machine

/-- Under a legal configuration a step is the turn of the agent that is next. -/
theorem step_eq_takeTurn {s : State} (h : s.cfg.wf = true) : step s = takeTurn s := by
  simp [step, h]

/-- A step that goes on had a legal configuration and took its turn. -/
theorem step_next {s t : State} (h : step s = .next t) :
    s.cfg.wf = true ∧ takeTurn s = .next t := by
  unfold step at h
  split at h
  · next hw => exact ⟨hw, h⟩
  · cases h

@[simp] theorem runSteps_zero (s : State) : runSteps 0 s = .next s := rfl

theorem runSteps_succ (k : Nat) (s : State) :
    runSteps (k + 1) s = andThen (step s) (runSteps k) := rfl

/-- Steps in two stretches. -/
theorem runSteps_add (j k : Nat) (s : State) :
    runSteps (j + k) s = andThen (runSteps j s) (runSteps k) := by
  induction j generalizing s with
  | zero => rw [Nat.zero_add]; rfl
  | succ j ih =>
    rw [Nat.add_right_comm, runSteps_succ, runSteps_succ]
    cases step s with
    | next t => exact ih t
    | fault r => rfl
    | refused r => rfl

/-- The host's run goes on where a step does. -/
theorem core_run_of_next (M : Host.Core) (k : Nat) {s t : M.State} (h : M.step s = .next t) :
    M.run (k + 1) s = M.run k t := by simp [Host.Core.run, h]

/-- The host's run stops where a step faults. -/
theorem core_run_of_fault (M : Host.Core) (k : Nat) {s : M.State} {r : M.Fault}
    (h : M.step s = .fault r) : M.run (k + 1) s = .fault r := by simp [Host.Core.run, h]

/-- The host's run stops where a step is refused. -/
theorem core_run_of_refused (M : Host.Core) (k : Nat) {s : M.State} {r : M.Refusal}
    (h : M.step s = .refused r) : M.run (k + 1) s = .refused r := by simp [Host.Core.run, h]

/-- The model's run is the host's. -/
theorem core_run_eq (k : Nat) (s : State) : Sys2Proof.core.run k s = runSteps k s := by
  induction k generalizing s with
  | zero => rfl
  | succ k ih =>
    rw [runSteps_succ]
    cases h : step s with
    | next t => exact (core_run_of_next Sys2Proof.core k h).trans (ih t)
    | fault r => exact core_run_of_fault Sys2Proof.core k h
    | refused r => exact core_run_of_refused Sys2Proof.core k h

@[simp] theorem execAll_nil (s : State) : execAll [] s = .next s := rfl

theorem execAll_cons (i : Instr) (is : List Instr) (s : State) :
    execAll (i :: is) s = andThen (exec i s) (execAll is) := rfl

/-- Operations in two stretches. -/
theorem execAll_append (is js : List Instr) (s : State) :
    execAll (is ++ js) s = andThen (execAll is s) (execAll js) := by
  induction is generalizing s with
  | nil => rfl
  | cons i is ih =>
    rw [List.cons_append, execAll_cons, execAll_cons]
    cases exec i s with
    | next t => exact ih t
    | fault r => rfl
    | refused r => rfl

@[simp] theorem drainResults_nil (s : State) : drainResults [] s = some (s, []) := rfl

/-- One operation more: a drain adds its result, any other operation none. -/
theorem drainResults_cons_of_next {i : Instr} {s t : State} (is : List Instr)
    (h : exec i s = .next t) :
    drainResults (i :: is) s =
      (drainResults is t).map fun (u, vs) => (u, if i = .drain then t.result :: vs else vs) := by
  rw [drainResults, h]

/-- A run whose drains are collected is a run, with one result for each drain. -/
theorem drainResults_eq_some {is : List Instr} {s t : State} {vs : List Nat}
    (h : drainResults is s = some (t, vs)) : execAll is s = .next t ∧ vs.length = drains is := by
  induction is generalizing s vs with
  | nil =>
    cases h
    exact ⟨rfl, rfl⟩
  | cons i is ih =>
    rw [drainResults] at h
    split at h
    · next u hu =>
      obtain ⟨⟨w, ws⟩, hw, e⟩ := Option.map_eq_some_iff.1 h
      cases e
      refine ⟨by rw [execAll_cons, hu, andThen_next, (ih hw).1], ?_⟩
      have hl := (ih hw).2
      by_cases hd : i = .drain <;> simp [hd, drains, hl]
    · cases h
    · cases h

/-- No beginning of a run completes more ticks than the run. -/
theorem ticksDone_take_le (is : List Instr) (o : Bit) (k : Nat) :
    ticksDone o (is.take k) ≤ ticksDone o is := by
  induction is generalizing o k with
  | nil => simp
  | cons i is ih =>
    cases k with
    | zero => simp [ticksDone]
    | succ k => cases i <;> simp [ticksDone, ih]

end Sys2Proof.Machine
end

