-- ==== Sys2Proof/Laws/Demodulator.lean ====
section
/-!
SUPPORT. What the shared parts of `DM.SAMPLE` can do: the correction, the first half of a short
pulse, and the arms of step 3 (41_demodulator.md R155 to R160).
-/

namespace Sys2Proof.Machine

theorem isComplete_iff (s : State) : isComplete s = true ↔ s.bitIndex = 128 := by
  simp [isComplete, Config.msgBits]

/-- The three state conditions of the correction (R160). -/
theorem correctionFires_iff (s : State) :
    correctionFires s = true ↔ s.cfg.fixEn = true ∧ s.bitIndex = 9 ∧ s.lastLevel = true := by
  simp [correctionFires, Config.fixPos, and_assoc]

/-- The correction appends a 1 at position 9, or does nothing. -/
theorem correction_cases (s : State) :
    (correctionFires s = true ∧
        correction s = .next { s with msg := setMsgCell s.msg 9 true, bitIndex := 10 }) ∨
      (correctionFires s = false ∧ correction s = .next s) := by
  cases h : correctionFires s with
  | true =>
    have h9 := ((correctionFires_iff s).1 h).2.1
    refine Or.inl ⟨rfl, ?_⟩
    rw [correction, if_pos h, append_next (by omega), h9]
    rfl
  | false => exact Or.inr ⟨rfl, by rw [correction, if_neg (by simp [h])]⟩

/-- The first half of a short pulse appends the level, after the correction where it fires. -/
theorem shortFirstHalf_cases {s : State} (hb : s.bitIndex < 128) :
    (correctionFires s = true ∧ shortFirstHalf s =
        .next { s with
          msg := setMsgCell (setMsgCell s.msg 9 true) 10 true, bitIndex := 11, phase := true }) ∨
      (correctionFires s = false ∧ shortFirstHalf s =
        .next { s with
          msg := setMsgCell s.msg s.bitIndex s.lastLevel, bitIndex := s.bitIndex + 1,
          phase := true }) := by
  rcases correction_cases s with ⟨h, e⟩ | ⟨h, e⟩
  · refine Or.inl ⟨h, ?_⟩
    rw [shortFirstHalf, e, andThen_next, append_next (by simp), andThen_next,
      ((correctionFires_iff s).1 h).2.2]
  · refine Or.inr ⟨h, ?_⟩
    rw [shortFirstHalf, e, andThen_next, append_next hb, andThen_next]

theorem classified_short_first {s : State} (hp : s.phase = false) :
    classified .short s = shortFirstHalf s := by simp [classified, hp]

theorem classified_short_second {s : State} (hp : s.phase = true) :
    classified .short s = .next { s with phase := false } := by simp [classified, hp]

theorem classified_long_second {s : State} (hp : s.phase = true) :
    classified .long s = append s.lastLevel s := by simp [classified, hp]

theorem classified_long_first {s : State} (hp : s.phase = false) :
    classified .long s = .next s.cleared := by simp [classified, hp]

theorem classified_other (s : State) : classified .other s = .next s.cleared := by
  simp [classified]

/-! ### The Demodulator's next registers, as a function of its own registers -/

/-- The Demodulator's five registers. -/
structure DemodRegs where
  bitIndex : Nat
  msg : BitVec 128
  phase : Bit
  runLength : Nat
  lastLevel : Bit
  deriving DecidableEq, Repr

def State.demod (s : State) : DemodRegs :=
  ⟨s.bitIndex, s.msg, s.phase, s.runLength, s.lastLevel⟩

def State.withDemod (s : State) (r : DemodRegs) : State :=
  { s with
    bitIndex := r.bitIndex, msg := r.msg, phase := r.phase, runLength := r.runLength,
    lastLevel := r.lastLevel }

/-- One sample, on registers with `bit_index <= 128`. -/
def demodNext (c : Cfg) (b : Bit) (r : DemodRegs) : DemodRegs :=
  if r.bitIndex = 128 then r
  else if b = r.lastLevel then { r with runLength := satInc c r.runLength }
  else
    match classify c r.runLength, r.phase with
    | .short, false =>
      if c.fixEn = true ∧ r.bitIndex = 9 ∧ r.lastLevel = true then
        ⟨11, setMsgCell (setMsgCell r.msg 9 true) 10 true, true, 0, b⟩
      else ⟨r.bitIndex + 1, setMsgCell r.msg r.bitIndex r.lastLevel, true, 0, b⟩
    | .short, true => ⟨r.bitIndex, r.msg, false, 0, b⟩
    | .long, true => ⟨r.bitIndex + 1, setMsgCell r.msg r.bitIndex r.lastLevel, true, 0, b⟩
    | .long, false => ⟨0, 0#128, false, 0, b⟩
    | .other, _ => ⟨0, 0#128, false, 0, b⟩

/-- `DM.SAMPLE` is that function on its own registers, and touches the bus alone besides. -/
theorem exec_sample_eq (b : Bit) {s : State} (hb : s.bitIndex ≤ 128) :
    exec (.sample b) s =
      .next (s.withDemod (demodNext s.cfg b s.demod)).returningNothing := by
  show execSample b s = _
  unfold execSample
  by_cases h : s.bitIndex = 128
  · rw [if_pos ((isComplete_iff s).2 h), demodNext, if_pos (show s.demod.bitIndex = 128 from h)]
    rfl
  · have hlt : s.bitIndex < 128 := by omega
    rw [if_neg (mt (isComplete_iff s).1 h), demodNext,
      if_neg (show ¬s.demod.bitIndex = 128 from h), sampleBody]
    by_cases hne : b = s.lastLevel
    · rw [if_pos hne, if_pos (show b = s.demod.lastLevel from hne), andThen_next]
      subst hne
      rfl
    · rw [if_neg hne, if_neg (show ¬b = s.demod.lastLevel from hne)]
      rcases Bool.eq_false_or_eq_true s.phase with hp | hp <;>
        rcases classify_cases s.cfg s.runLength with ⟨e, -⟩ | ⟨e, -⟩ | ⟨e, -⟩ <;>
        simp only [State.demod, e, hp]
      · rw [classified_short_second (s := { s with runLength := 0, phase := true }) rfl]
        rfl
      · rw [classified_long_second (s := { s with runLength := 0, phase := true }) rfl,
          append_next (s := { s with runLength := 0, phase := true }) hlt]
        rfl
      · rw [classified_other]
        rfl
      · rw [classified_short_first (s := { s with runLength := 0, phase := false }) rfl]
        rcases shortFirstHalf_cases (s := { s with runLength := 0, phase := false }) hlt with
          ⟨hc, es⟩ | ⟨hc, es⟩
        · rw [es, if_pos ((correctionFires_iff { s with runLength := 0 }).1 hc)]
          rfl
        · rw [es, if_neg fun g => Bool.eq_false_iff.1 hc
            ((correctionFires_iff { s with runLength := 0, phase := false }).2 g)]
          rfl
      · rw [classified_long_first (s := { s with runLength := 0, phase := false }) rfl]
        rfl
      · rw [classified_other]
        rfl

/-- No sample makes `bit_index` pass 128. -/
theorem demodNext_bitIndex_le (c : Cfg) (b : Bit) {r : DemodRegs} (hb : r.bitIndex ≤ 128) :
    (demodNext c b r).bitIndex ≤ 128 := by
  unfold demodNext
  split
  · omega
  · split
    · exact hb
    · split
      · split
        · dsimp only
          omega
        · dsimp only
          omega
      all_goals
        dsimp only
        omega

end Sys2Proof.Machine
end

