-- ==== Sys2Proof/Laws/PerInstr.lean ====
section
/-!
SUPPORT. A fact about every operation as syntax: its encoding goes out on its own port, and on the
command port it selects its own row of the opcode map and no other (30_encoding.md R95).
-/

namespace Sys2Proof.Laws.EncodeSelectsRow

/-- The row of the opcode map that stands for an operation; none for the tick event. -/
def rowOf : Instr → Option OpcodeRow
  | .tick _ => none
  | .setsrc _ => some rowSetsrc
  | .avail => some rowAvail
  | .drain => some rowDrain
  | .sbReset => some rowSbReset
  | .sample _ => some rowSample
  | .dmReset => some rowDmReset
  | .bits => some rowBits
  | .msgb _ => some rowMsgb

/-- A word selects exactly the rows listed, in the table's order. -/
def selected (w : CommandWord) : List OpcodeRow := opcodeRows.filter (·.selects w)

/-- The word of an operation selects its row alone; a tick is an event. -/
def Statement (i : Instr) : Prop :=
  match encode i, rowOf i with
  | .event _, none => True
  | .command w, some r => selected w = [r]
  | _, _ => False

theorem tick (d : Bit) : Statement (.tick d) := trivial
theorem setsrc (id : LineId) : Statement (.setsrc id) := by
  revert id
  show ∀ id : LineId, selected (commandWord 0x1#4 id) = [rowSetsrc]
  decide
theorem avail : Statement .avail := by
  show selected (commandWord 0x2#4 0#8) = [rowAvail]
  decide
theorem drain : Statement .drain := by
  show selected (commandWord 0x3#4 0#8) = [rowDrain]
  decide
theorem sbReset : Statement .sbReset := by
  show selected (commandWord 0x4#4 0#8) = [rowSbReset]
  decide
theorem sample (b : Bit) : Statement (.sample b) := by
  revert b
  show ∀ b : Bit, selected (commandWord 0x5#4 (0#7 ++ BitVec.ofBool b)) = [rowSample]
  decide
theorem dmReset : Statement .dmReset := by
  show selected (commandWord 0x6#4 0#8) = [rowDmReset]
  decide
theorem bits : Statement .bits := by
  show selected (commandWord 0x7#4 0#8) = [rowBits]
  decide
theorem msgb (k : BitVec 4) : Statement (.msgb k) := by
  revert k
  show ∀ k : BitVec 4, selected (commandWord 0x8#4 (0#4 ++ k)) = [rowMsgb]
  decide

end Sys2Proof.Laws.EncodeSelectsRow
end

