-- ==== Sys2Proof/Tests/Slice0.lean ====
section
/-!
SUPPORT. Our own tests: well-formedness, decoding of words written out from 30_encoding.md, one small
step per operation with results from 95_test_vectors.md or from the rules, and for every statement
with hypotheses a concrete state that meets them (the theorems named `witness_`).
-/

open Sys2Proof Sys2Proof.Machine

namespace Sys2Proof.Tests

/-- `CAPACITY = 8, THRESHOLD = 4, (MIN_RUN, MAX_RUN) = (4, 16)`: 95_test_vectors.md P1 and P3. -/
def cfg8 : Cfg :=
  { ptrW := 3, threshold := 4, minRun := 4, maxRun := 16, rlW := 16, fixEn := true }

def on8 : State := State.powerOn cfg8

/-- What an answer's next state satisfies; false where the machine stopped. -/
def after (a : Answer) (p : State → Bool) : Bool :=
  match a with
  | .next s => p s
  | .fault _ => false
  | .refused _ => false

def isFault (a : Answer) (r : Fault) : Bool :=
  match a with
  | .fault q => decide (q = r)
  | .next _ => false
  | .refused _ => false

def isRefused (a : Answer) (r : Refusal) : Bool :=
  match a with
  | .refused q => decide (q = r)
  | .next _ => false
  | .fault _ => false

/-! ### Well-formedness (00_scope.md R6 to R10): the boundary is accepted, one past it refused -/

theorem test_cfg_nominal_wf : cfg8.wf = true ∧ Config.example64.wf = true := by decide
theorem test_cfg_boundary_wf :
    ({ ptrW := 1, threshold := 1, minRun := 0, maxRun := 2, rlW := 3, fixEn := false } : Cfg).wf
      = true := by decide
theorem test_cfg_ptrW_refused :
    ({ cfg8 with ptrW := 0 } : Cfg).ptrWOk = false ∧
      ({ cfg8 with ptrW := 0 } : Cfg).wf = false := by decide
theorem test_cfg_threshold_refused :
    ({ cfg8 with threshold := 7 } : Cfg).thresholdOk = true ∧
      ({ cfg8 with threshold := 8 } : Cfg).thresholdOk = false ∧
      ({ cfg8 with threshold := 8 } : Cfg).wf = false := by decide
theorem test_cfg_runWindow_refused :
    ({ cfg8 with minRun := 14 } : Cfg).runWindowOk = true ∧
      ({ cfg8 with minRun := 15 } : Cfg).runWindowOk = false ∧
      ({ cfg8 with minRun := 15 } : Cfg).wf = false := by decide
theorem test_cfg_counter_refused :
    ({ cfg8 with rlW := 6 } : Cfg).counterOk = true ∧
      ({ cfg8 with rlW := 5 } : Cfg).counterOk = false ∧
      ({ cfg8 with rlW := 5 } : Cfg).wf = false := by decide

/-! ### Decoding and encoding, words written bit by bit (30_encoding.md R91 to R96, V-ENC-1) -/

theorem test_decode_tick :
    decode (.event false) = .ok (.tick false) ∧ decode (.event true) = .ok (.tick true) := by decide
theorem test_decode_setsrc :
    decode (.command 0b000100000000#12) = .ok (.setsrc 0#8) ∧
      decode (.command 0b000111111111#12) = .ok (.setsrc 255#8) := by decide
theorem test_decode_avail : decode (.command 0b001000000000#12) = .ok .avail := by decide
theorem test_decode_drain : decode (.command 0b001100000000#12) = .ok .drain := by decide
theorem test_decode_sbReset : decode (.command 0b010000000000#12) = .ok .sbReset := by decide
theorem test_decode_sample :
    decode (.command 0b010100000000#12) = .ok (.sample false) ∧
      decode (.command 0b010100000001#12) = .ok (.sample true) := by decide
theorem test_decode_dmReset : decode (.command 0b011000000000#12) = .ok .dmReset := by decide
theorem test_decode_bits : decode (.command 0b011100000000#12) = .ok .bits := by decide
theorem test_decode_msgb :
    decode (.command 0b100000000111#12) = .ok (.msgb 7#4) ∧
      decode (.command 0b100000001111#12) = .ok (.msgb 15#4) := by decide

theorem test_encode_words :
    encode (.tick true) = .event true ∧ encode (.setsrc 5#8) = .command 0x105#12 ∧
      encode .avail = .command 0x200#12 ∧ encode .drain = .command 0x300#12 ∧
      encode .sbReset = .command 0x400#12 ∧ encode (.sample true) = .command 0x501#12 ∧
      encode .dmReset = .command 0x600#12 ∧ encode .bits = .command 0x700#12 ∧
      encode (.msgb 15#4) = .command 0x80F#12 := by decide

/-- V-ENC-2: the reserved opcodes. -/
theorem test_decode_reserved_opcode :
    decode (.command 0x000#12) = .error (.reservedOpcode 0x0#4) ∧
      decode (.command 0x0FF#12) = .error (.reservedOpcode 0x0#4) ∧
      decode (.command 0x900#12) = .error (.reservedOpcode 0x9#4) ∧
      decode (.command 0xFFF#12) = .error (.reservedOpcode 0xF#4) := by decide

/-- V-ENC-2: assigned opcodes with a must-be-zero bit set. -/
theorem test_decode_must_be_zero :
    ∀ w ∈ [0x201#12, 0x2FF#12, 0x301#12, 0x480#12, 0x502#12, 0x503#12, 0x601#12, 0x710#12,
      0x810#12, 0x8FF#12], decode (.command w) = .error (.nonzeroMustBeZero w) := by decide

theorem test_decodeTableWord :
    decodeTableWord 8 1 = some (.tick true) ∧ decodeTableWord 16 0x105 = some (.setsrc 5#8) ∧
      decodeTableWord 16 0x201 = none ∧ decodeTableWord 16 0x1105 = none := by decide

/-- A placed command word runs in the very next step. -/
theorem test_withFetchWord_command :
    after (step (State.reset.withFetchWord 16 0x105)) (fun t =>
      decide (t.inputSel = 5#8) && decide (t.commands = []) && decide (t.turns = [])) = true := by
  decide

/-- A placed tick event runs its T1 in the very next step, with the level it names. -/
theorem test_withFetchWord_tick :
    after (step (State.reset.withFetchWord 8 1)) (fun t =>
      decide (t.mem = [(0, true)]) && t.tickOpen && decide (t.lines = [])) = true := by decide

/-! ### One step of each operation -/

/-- R120, example: `head=7, tail=2, MEM[7]=0`, level 1: T1, then T2 wraps and the count is 6. -/
theorem test_tick_example :
    after (exec (.tick true) { on8 with head := 7, tail := 2, mem := [(7, false)] }) (fun t =>
      decide (t.mem = [(7, true)]) && t.tickOpen && decide (t.head = 7) &&
        after (exec (.tick false) t) (fun u =>
          decide (u.head = 0) && !u.tickOpen && decide (availableCount u = 6) &&
            decide (u.mem = [(7, true)]))) = true := by decide

/-- T1 at a slot between two written ones keeps the store in order. -/
theorem test_tick_store_order :
    after (exec (.tick true) { on8 with head := 3, mem := [(1, false), (5, true)] }) (fun t =>
      decide (t.mem = [(1, false), (3, true), (5, true)])) = true := by decide

/-- R121: the identifier lands in `input_sel`; after a T1 the run is refused (U3). -/
theorem test_setsrc :
    after (exec (.setsrc 0xFE#8) on8) (fun t => decide (t.inputSel = 0xFE#8)) = true ∧
      isRefused (exec (.setsrc 1#8) { on8 with ticked := true }) .setSourceAfterFirstTick
        = true := by decide

/-- R122, example: `head=2, tail=3` returns 7; `head=5, tail=3` returns 2. -/
theorem test_avail_example :
    after (exec .avail { on8 with head := 2, tail := 3 }) (fun t => decide (t.result = 7)) = true ∧
      after (exec .avail { on8 with head := 5, tail := 3 }) (fun t =>
        decide (t.result = 2) && t.resultDefined) = true := by decide

/-- R123, example: `tail=3, MEM[3]=1` returns 1 and leaves `tail=4`. -/
theorem test_drain_example :
    after (exec .drain { on8 with head := 4, tail := 3, mem := [(3, true)] }) (fun t =>
      decide (t.result = 1) && decide (t.tail = 4) && decide (t.head = 4) &&
        decide (t.mem = [(3, true)])) = true := by decide

/-- R123 (a), (b): a drain of a never-written slot with nothing pending still wraps `tail`. -/
theorem test_drain_underflow_wraps :
    after (exec .drain { on8 with head := 7, tail := 7 }) (fun t =>
      decide (t.tail = 0) && decide (availableCount t = 7) && decide (t.draws = 1)) = true := by
  decide

/-- R124, example: `head=5` after the reset is 0, and the store stays. -/
theorem test_sbReset_example :
    after (exec .sbReset { on8 with head := 5, mem := [(0, true)] }) (fun t =>
      decide (t.head = 0) && decide (t.tail = 0) && decide (t.mem = [(0, true)])) = true := by
  decide

/-- P3: `SB.RESET` while a tick is open waits, and its word stays. -/
theorem test_sbReset_waits :
    after (step { on8 with
        head := 5, tickOpen := true, commands := [0x400#12], turns := [.consumer] }) (fun t =>
      decide (t.head = 5) && t.tickOpen && decide (t.commands = [0x400#12])) = true := by decide

/-- S8: `ll=1 rl=10 ph=0 bi=0`, `DM.SAMPLE 0` gives `ll=0 rl=0 ph=1 bi=1 msg=1`. -/
theorem test_sample_S8 :
    after (exec (.sample false) { on8 with lastLevel := true, runLength := 10 }) (fun t =>
      !t.lastLevel && decide (t.runLength = 0) && t.phase && decide (t.bitIndex = 1) &&
        decide (msgByte t.msg 0 = 0x80#8)) = true := by decide

/-- V-DM-12: the correction appends twice at bit 9. -/
theorem test_sample_correction :
    after (exec (.sample false)
        { on8 with lastLevel := true, runLength := 10, bitIndex := 9 }) (fun t =>
      decide (t.bitIndex = 11) && msgCell t.msg 9 && msgCell t.msg 10 && t.phase) = true := by
  decide

/-- R164, example: from `ll=1 rl=7 ph=1 bi=57` all five elements become 0. -/
theorem test_dmReset_example :
    after (exec .dmReset { on8 with
        lastLevel := true, runLength := 7, phase := true, bitIndex := 57, msg := 5#128 }) (fun t =>
      !t.lastLevel && decide (t.runLength = 0) && !t.phase && decide (t.bitIndex = 0) &&
        decide (t.msg = 0#128)) = true := by decide

/-- V-DM-33: `DM.BITS` in COMPLETE returns 128. -/
theorem test_bits_complete :
    after (exec .bits { on8 with bitIndex := 128 }) (fun t => decide (t.result = 128)) = true := by
  decide

/-- V-DM-33: with M1 in `MSG`, byte 0 is 0xA5 and byte 15 is 0x66. -/
theorem test_msgb_example :
    after (exec (.msgb 0#4) { on8 with
        bitIndex := 128, msg := 0xA53C0FF0123456789ABCDEF0C35A9966#128 }) (fun t =>
      decide (t.result = 0xA5)) = true ∧
    after (exec (.msgb 15#4) { on8 with
        bitIndex := 128, msg := 0xA53C0FF0123456789ABCDEF0C35A9966#128 }) (fun t =>
      decide (t.result = 0x66)) = true := by decide

/-- V-SQ-2 and V-SQ-3: 5 pending is a backlog at threshold 4, 4 pending is not. -/
theorem test_pass_threshold_is_strict :
    after (step { on8 with head := 5, sequencer := some .count, turns := [.consumer] }) (fun t =>
      decide (t.sequencer = some .flushBuffer)) = true ∧
    after (step { on8 with head := 4, sequencer := some .count, turns := [.consumer] }) (fun t =>
      decide (t.sequencer = some (.drain 4))) = true := by decide

/-! ### Witnesses: concrete states and operands that meet a statement's hypotheses -/

/-- Two samples unread, one of a wrap: a state of the Sample Buffer in use. -/
def busy : State :=
  { on8 with head := 1, tail := 7, mem := [(0, true), (7, false)], ticked := true }

/-- A transition to 0 is due on this state: the level held is 1. -/
def held (l : Nat) (ph : Bit) (bi : Nat) : State :=
  { on8 with lastLevel := true, runLength := l, phase := ph, bitIndex := bi }

/-- One bit decoded, one sample unread, the sequencer about to drain it. -/
def midPass : State :=
  { busy with
    tail := 0, lastLevel := true, runLength := 3, phase := true, bitIndex := 1,
    msg := setMsgCell 0#128 0 true, sequencer := some (.drain 1), turns := [.consumer] }

/-- A complete message offered to the sink. -/
def offering : State :=
  { busy with
    bitIndex := 128, msg := 5#128, sequencer := some (.handOver 0 (msgBytes 5#128)),
    turns := [.sink true] }

theorem witness_EncodeInvertsDecode : decode (.command 0x105#12) = .ok (.setsrc 5#8) := by decide

theorem witness_ConsumerStepRunsDecodedWord :
    let s : State := { busy with turns := [.consumer, .sampler], commands := [0x80F#12, 0x200#12] }
    s.cfg.wf = true ∧ s.turns = .consumer :: [.sampler] ∧ s.commands = 0x80F#12 :: [0x200#12] ∧
      decode (.command 0x80F#12) = .ok (.msgb 15#4) ∧
      ¬(Instr.msgb 15#4 = .sbReset ∧ s.tickOpen = true) := by decide

theorem witness_SamplerStepRunsTick_T1 :
    let s : State := { busy with turns := [.sampler], lines := [1#256] }
    s.cfg.wf = true ∧ s.turns = .sampler :: [] ∧ s.tickOpen = false ∧ s.lines = 1#256 :: [] := by
  decide

theorem witness_SamplerStepRunsTick_T2 :
    let s : State := { busy with turns := [.sampler], tickOpen := true }
    s.cfg.wf = true ∧ s.turns = .sampler :: [] ∧ s.tickOpen = true := by decide

theorem witness_OpenTickHoldsBufferReset_waits :
    let s : State := { busy with
      turns := [.consumer], tickOpen := true, commands := [0x400#12] }
    s.cfg.wf = true ∧ s.tickOpen = true ∧ s.commands = 0x400#12 :: [] ∧
      s.turns = .consumer :: [] := by decide

theorem witness_OpenTickHoldsBufferReset_takes_effect :
    let s : State := { busy with
      turns := [.consumer, .sampler, .consumer], tickOpen := true,
      commands := [0x400#12, 0x600#12] }
    s.cfg.wf = true ∧ s.tickOpen = true ∧ s.commands = 0x400#12 :: [0x600#12] ∧
      s.turns = .consumer :: .sampler :: .consumer :: [] := by decide

theorem witness_ReservedWordRefused :
    let s : State := { busy with turns := [.consumer], commands := [0x000#12] }
    s.cfg.wf = true ∧ s.turns = .consumer :: [] ∧ s.commands = 0x000#12 :: [] ∧
      ¬∃ i, decode (.command 0x000#12) = .ok i := by
  refine ⟨by decide, rfl, rfl, ?_⟩
  rintro ⟨i, h⟩
  have e : decode (.command 0x000#12) = .error (.reservedOpcode 0x0#4) := by decide
  rw [e] at h
  cases h

theorem witness_IllegalConfigurationRefused :
    ({ cfg8 with ptrW := 0 } : Cfg).ptrW = 0 ∧
      2 ^ ({ cfg8 with threshold := 8 } : Cfg).ptrW - 1 < ({ cfg8 with threshold := 8 } : Cfg).threshold ∧
      ({ cfg8 with minRun := 15 } : Cfg).maxRun ≤ ({ cfg8 with minRun := 15 } : Cfg).minRun + 1 ∧
      2 ^ ({ cfg8 with rlW := 5 } : Cfg).rlW - 1 < 2 * ({ cfg8 with rlW := 5 } : Cfg).maxRun := by
  decide

theorem witness_PowerOnMeetsInvariant : cfg8.wf = true := by decide

theorem witness_SaturationIsInvisible : cfg8.wf = true := by decide

/-- Each window at its boundary values (V-DM-1). -/
theorem witness_ClassificationWindows :
    cfg8.wf = true ∧ classify cfg8 4 = .other ∧ classify cfg8 5 = .short ∧
      classify cfg8 15 = .short ∧ classify cfg8 16 = .other ∧ classify cfg8 17 = .long ∧
      classify cfg8 31 = .long ∧ classify cfg8 32 = .other := by decide

theorem witness_BootSelectsLineThenLoops : cfg8.wf = true := by decide

theorem witness_TickT1StoresAtHead :
    busy.tickOpen = false ∧ busy.head < busy.cfg.capacity := by decide

theorem witness_TickT2PublishesHead :
    let s : State := { busy with tickOpen := true, head := 7 }
    s.tickOpen = true ∧ s.head < s.cfg.capacity := by decide

theorem witness_SetSourceSelectsLine : on8.ticked = false ∧ busy.ticked = true := by decide

theorem witness_SelectedLineIsSampled :
    let s : State := { on8 with
      commands := [0x1FF#12], lines := [1#256 <<< 255], turns := [.consumer, .sampler] }
    s.cfg.wf = true ∧ s.ticked = false ∧ s.tickOpen = false ∧ s.head < s.cfg.capacity ∧
      (0x1FF#12).toNat = 0x100 + (0xFF#8).toNat ∧ s.commands = 0x1FF#12 :: [] ∧
      s.lines = (1#256 <<< 255) :: [] ∧ s.turns = .consumer :: .sampler :: [] := by decide

theorem witness_AvailReturnsPendingCount :
    busy.head < busy.cfg.capacity ∧ busy.tail < busy.cfg.capacity := by decide

theorem witness_DrainReturnsStoredSample :
    busy.tail < busy.cfg.capacity ∧ readSlot busy.mem busy.tail = some false := by decide

theorem witness_DrainOfUnwrittenSlotCompletes :
    on8.tail < on8.cfg.capacity ∧ readSlot on8.mem on8.tail = none := by decide

theorem witness_BufferResetClearsPointersOrWaits :
    busy.tickOpen = false ∧ ({ busy with tickOpen := true } : State).tickOpen = true := by decide

theorem witness_SnapshotCountsOnlyFinishedTicks :
    busy.tickOpen = false ∧ busy.head < busy.cfg.capacity ∧ busy.tail < busy.cfg.capacity := by
  decide

/-- The boundary `N = CAPACITY`. -/
theorem witness_DrainsAreFirstInFirstOut :
    on8.tickOpen = false ∧ on8.head < on8.cfg.capacity ∧ on8.tail = on8.head ∧
      (List.replicate 8 true).length ≤ on8.cfg.capacity := by decide

theorem witness_OverrunWrapsSilently :
    on8.tickOpen = false ∧ on8.head < on8.cfg.capacity ∧ on8.tail = on8.head := by decide

theorem witness_FullLooksEmpty :
    let s : State := { on8 with tickOpen := true, head := 7, tail := 0 }
    s.tickOpen = true ∧ s.head < s.cfg.capacity ∧ s.tail < s.cfg.capacity ∧
      availableCount s = s.cfg.capacity - 1 := by decide

theorem witness_UnderflowLeavesPhantoms :
    on8.head < on8.cfg.capacity ∧ on8.tail = on8.head := by decide

/-- The boundary: as many drains as were counted. -/
theorem witness_CountedDrainsAreServed :
    busy.head < busy.cfg.capacity ∧ busy.tail < busy.cfg.capacity ∧ 2 ≤ availableCount busy ∧
      availableCount busy = 2 := by decide

/-- Ticks among the drains, at both boundaries: as many drains as counted (2), and the count plus the
5 completed ticks is `CAPACITY - 1`; the first drain falls between T1 and T2. -/
theorem witness_CountedDrainsAreServed_interleaved :
    let ops : List Instr := [.tick true, .drain, .tick true] ++ fullTicks [true, false, true, true] ++
      [.avail, .sample true, .drain]
    busy.head < busy.cfg.capacity ∧ busy.tail < busy.cfg.capacity ∧ busy.bitIndex ≤ 128 ∧
      (∀ i ∈ ops, keepsQueue i = true) ∧ drains ops = availableCount busy ∧
      NoOverrun busy.cfg (availableCount busy) (ticksDone busy.tickOpen ops) ∧
      ticksDone busy.tickOpen ops = 5 ∧ 1 < drains ops ∧
      readSlot busy.mem ((busy.tail + 1) % busy.cfg.capacity) = some true ∧
      ops = [.tick true] ++ .drain ::
        ([.tick true] ++ fullTicks [true, false, true, true] ++ [.avail, .sample true, .drain]) := by
  unfold NoOverrun; decide

/-- `CAPACITY - 1` samples unread, an eighth stored, and a drain between its T1 and T2. -/
theorem witness_InterleavedDrainsAreFirstInFirstOut :
    let ops : List Instr := fullTicks [true, false, true, true, false, false, true] ++
      [.tick true, .drain, .tick true, .bits, .drain]
    on8.tickOpen = false ∧ on8.head < on8.cfg.capacity ∧ on8.tail = on8.head ∧
      on8.bitIndex ≤ 128 ∧ (∀ i ∈ ops, keepsQueue i = true) ∧
      ∀ k, k ≤ ops.length →
        drains (ops.take k) ≤ ticksDone false (ops.take k) ∧
          NoOverrun on8.cfg (ticksDone false (ops.take k) - drains (ops.take k)) 0 := by
  unfold NoOverrun; decide

theorem witness_DrainCommutesWithTick :
    busy.tickOpen = false ∧ busy.head < busy.cfg.capacity ∧ busy.tail < busy.cfg.capacity ∧
      busy.head ≠ busy.tail := by decide

theorem witness_IndexOutsideItsSpaceFaults_head :
    let s : State := { on8 with head := 8 }
    s.tickOpen = false ∧ s.cfg.capacity ≤ s.head := by decide

theorem witness_IndexOutsideItsSpaceFaults_tail :
    let s : State := { on8 with tail := 8 }
    s.cfg.capacity ≤ s.tail := by decide

theorem witness_IndexOutsideItsSpaceFaults_cell :
    let s := held 10 false 129
    128 < s.bitIndex ∧ false ≠ s.lastLevel ∧ s.phase = false ∧ s.cfg.minRun < s.runLength ∧
      s.runLength < s.cfg.maxRun := by decide

theorem witness_IndexOutsideItsSpaceFaults_cell_long :
    let s := held 31 true 129
    128 < s.bitIndex ∧ false ≠ s.lastLevel ∧ s.phase = true ∧ s.cfg.maxRun < s.runLength ∧
      s.runLength < 2 * s.cfg.maxRun := by decide

/-- All three indices at the last value of their spaces. -/
theorem witness_IndexOutsideItsSpaceFaults_inside :
    let s : State := { held 31 true 128 with head := 7, tail := 7 }
    s.head < s.cfg.capacity ∧ s.tail < s.cfg.capacity ∧ s.bitIndex ≤ 128 := by decide

theorem witness_SampleIgnoredWhenComplete : offering.bitIndex = 128 := by decide

theorem witness_SampleOfSameLevelCounts : (held 65535 false 127).bitIndex ≠ 128 := by decide

theorem witness_ShortPulseFirstHalfAppends :
    let s := held 15 false 127
    s.bitIndex < 128 ∧ false ≠ s.lastLevel ∧ s.cfg.minRun < s.runLength ∧
      s.runLength < s.cfg.maxRun ∧ s.phase = false ∧
      ¬(s.cfg.fixEn = true ∧ s.bitIndex = 9 ∧ s.lastLevel = true) := by decide

theorem witness_BitNineCorrectionAppendsTwice_fires :
    let s := held 5 false 9
    s.cfg.fixEn = true ∧ s.bitIndex = 9 ∧ s.lastLevel = true ∧ false ≠ s.lastLevel ∧
      s.cfg.minRun < s.runLength ∧ s.runLength < s.cfg.maxRun ∧ s.phase = false := by decide

theorem witness_BitNineCorrectionAppendsTwice_only :
    (held 5 false 9).bitIndex ≤ 128 ∧
      ∃ t, exec (.sample false) (held 5 false 9) = .next t ∧
        t.bitIndex = (held 5 false 9).bitIndex + 2 := ⟨by decide, _, rfl, rfl⟩

theorem witness_ShortPulseSecondHalfTogglesPhase :
    let s := held 5 true 1
    s.bitIndex ≠ 128 ∧ false ≠ s.lastLevel ∧ s.cfg.minRun < s.runLength ∧
      s.runLength < s.cfg.maxRun ∧ s.phase = true := by decide

theorem witness_LongPulseSecondHalfAppends :
    let s := held 31 true 127
    s.bitIndex < 128 ∧ false ≠ s.lastLevel ∧ s.cfg.maxRun < s.runLength ∧
      s.runLength < 2 * s.cfg.maxRun ∧ s.phase = true := by decide

theorem witness_LongPulseFirstHalfClears :
    let s := held 17 false 127
    s.bitIndex ≠ 128 ∧ false ≠ s.lastLevel ∧ s.cfg.maxRun < s.runLength ∧
      s.runLength < 2 * s.cfg.maxRun ∧ s.phase = false := by decide

/-- The three ranges at their boundaries: 4, 16 and 32. -/
theorem witness_RunInNoWindowClears :
    (held 4 true 57).cfg.wf = true ∧ (held 4 true 57).bitIndex ≠ 128 ∧
      false ≠ (held 4 true 57).lastLevel ∧
      (held 4 true 57).runLength ≤ (held 4 true 57).cfg.minRun ∧
      (held 16 true 57).runLength = (held 16 true 57).cfg.maxRun ∧
      2 * (held 32 true 57).cfg.maxRun ≤ (held 32 true 57).runLength := by decide

theorem witness_DesyncMarkedExactly : (held 16 true 57).cfg.wf = true := by decide

theorem witness_SampleCompletesWithinMessage : (held 5 false 127).bitIndex ≤ 128 := by decide

/-- A completing sample: the frame's premises, with a cell below `bit_index`. -/
theorem witness_SampleFrame :
    ∃ t, exec (.sample false) (held 5 false 127) = .next t ∧
      (held 5 false 127).bitIndex ≤ t.bitIndex ∧ 126 < (held 5 false 127).bitIndex ∧
      (held 5 false 127).bitIndex ≠ 128 := ⟨_, rfl, by decide, by decide, by decide⟩

theorem witness_MessageByteIsMostSignificantFirst :
    7 < 8 ∧ 8 * (15#4).toNat + 7 < offering.bitIndex := by decide

theorem witness_CompleteMessageIsFrozen :
    offering.bitIndex = 128 ∧ Instr.sample true ≠ .dmReset ∧
      ∃ t, exec (.sample true) offering = .next t := ⟨by decide, by decide, _, rfl⟩

/-- The shortest and the longest half-symbol for `(4, 16)`, with the shortest lead-in. -/
theorem witness_EncodedMessageIsDecoded :
    on8.cfg.wf = true ∧ DemodFresh on8 ∧ HalfSymbolFits on8.cfg 9 ∧ HalfSymbolFits on8.cfg 16 ∧
      2 * on8.cfg.maxRun + 1 ≤ 33 ∧
      (on8.cfg.fixEn = false ∨
        ¬(msgCell 0xA53C0FF0123456789ABCDEF0C35A9966#128 8 = true ∧
          msgCell 0xA53C0FF0123456789ABCDEF0C35A9966#128 9 = true)) := by
  unfold DemodFresh HalfSymbolFits; decide

theorem witness_CorrectionShiftsEncodedMessage :
    on8.cfg.wf = true ∧ DemodFresh on8 ∧ HalfSymbolFits on8.cfg 12 ∧
      2 * on8.cfg.maxRun + 1 ≤ 33 ∧ on8.cfg.fixEn = true ∧
      msgCell 0xA5C30FF0123456789ABCDEF0C35A9966#128 8 = true ∧
      msgCell 0xA5C30FF0123456789ABCDEF0C35A9966#128 9 = true := by
  unfold DemodFresh HalfSymbolFits; decide

/-- Both branches at the threshold: one more than 4 pending, and 4; and none pending. -/
theorem witness_PassTestsBacklogFirst :
    let s : State := { on8 with
      head := 5, turns := [.consumer], sequencer := some .count }
    s.cfg.wf = true ∧ s.turns = .consumer :: [] ∧ s.commands = [] ∧ s.sequencer = some .count ∧
      s.cfg.threshold < availableCount s ∧
      availableCount { s with head := 4 } = s.cfg.threshold ∧
      availableCount { s with head := 0 } = 0 := by decide

theorem witness_PassFeedsEachDrainedSample :
    let s : State := { busy with
      turns := [.consumer, .consumer, .consumer], sequencer := some (.drain 2) }
    s.cfg.wf = true ∧ s.turns = .consumer :: .consumer :: .consumer :: [] ∧ s.commands = [] ∧
      s.sequencer = some (.drain (1 + 1)) ∧ s.tail < s.cfg.capacity ∧
      readSlot s.mem s.tail = some false ∧ s.bitIndex ≤ 128 := by decide

/-- The other branch: the drained bit completes the message. -/
theorem witness_PassFeedsEachDrainedSample_completes :
    let s : State := { held 31 true 127 with
      mem := [(0, false)], head := 1, turns := [.consumer, .consumer, .consumer]
      sequencer := some (.drain 1) }
    s.cfg.wf = true ∧ s.turns = .consumer :: .consumer :: .consumer :: [] ∧ s.commands = [] ∧
      s.sequencer = some (.drain (0 + 1)) ∧ s.tail < s.cfg.capacity ∧
      readSlot s.mem s.tail = some false ∧ s.bitIndex ≤ 128 ∧
      after (exec (.sample false) s) (fun t => decide (t.bitIndex = 128)) = true := by decide

theorem witness_RecoverFlushesBothUnits : busy.tickOpen = false := by decide

/-- The sequencer in RECOVER: at its first point with and without an open tick, and at its second. -/
theorem witness_RecoverFlushesBothUnits_sequencer :
    let s : State := { busy with
      bitIndex := 57, sequencer := some .flushBuffer, turns := [.consumer, .consumer] }
    let d : State := { s with sequencer := some .flushDemod, turns := [.consumer] }
    s.cfg.wf = true ∧ s.commands = [] ∧ s.sequencer = some .flushBuffer ∧ s.tickOpen = false ∧
      s.turns = .consumer :: .consumer :: [] ∧ s.turns = .consumer :: [.consumer] ∧
      ({ s with tickOpen := true } : State).tickOpen = true ∧
      d.cfg.wf = true ∧ d.commands = [] ∧ d.sequencer = some .flushDemod ∧
      d.turns = .consumer :: [] := by decide

theorem witness_HandOverWaitsForSink :
    offering.cfg.wf = true ∧ offering.commands = [] ∧
      offering.sequencer = some (.handOver 0 (msgBytes 5#128)) ∧
      offering.turns = .sink true :: [] ∧
      ({ offering with turns := [.sink false] } : State).turns = .sink false :: [] ∧
      ({ offering with turns := [.consumer] } : State).turns = .consumer :: [] := by decide

theorem witness_CompleteMessageIsDelivered :
    let s : State := { offering with
      sequencer := some (.check 3)
      turns := List.replicate 17 .consumer ++ .sink true :: .consumer :: [] }
    s.cfg.wf = true ∧ s.commands = [] ∧ s.sequencer = some (.check 3) ∧ s.bitIndex = 128 ∧
      s.turns = List.replicate 17 .consumer ++ .sink true :: .consumer :: [] := by decide

theorem witness_Invariant_midPass : Invariant midPass where
  cfgWf := by decide
  headLt := by decide
  tailLt := by decide
  memWf := by decide
  runLe := by decide
  bitLe := by decide
  syncPhase := by decide
  msgClear := fun i hi => by
    have h1 : 1 ≤ i := hi
    show msgCell (setMsgCell 0#128 0 true) i = false
    rw [msgCell_setMsgCell _ _ _ (by decide), if_neg (by omega), msgCell_zero]
  resultLt := by decide
  openTicked := by decide
  handOver := trivial

theorem witness_Invariant_offering : Invariant offering where
  cfgWf := by decide
  headLt := by decide
  tailLt := by decide
  memWf := by decide
  runLe := by decide
  bitLe := by decide
  syncPhase := by decide
  msgClear := fun _ hi => msgCell_of_le hi
  resultLt := by decide
  openTicked := by decide
  handOver := ⟨rfl, rfl, rfl⟩

/-- A state of a pass meets the invariant and steps on. -/
theorem witness_EveryStepKeepsInvariant :
    Invariant midPass ∧ ∃ t, step midPass = .next t := ⟨witness_Invariant_midPass, _, rfl⟩

theorem witness_NoStepFaultsUnderInvariant : Invariant offering := witness_Invariant_offering

theorem witness_SequencerNeverStops : Invariant midPass ∧ midPass.commands = [] :=
  ⟨witness_Invariant_midPass, rfl⟩

theorem witness_ConfigurationIsConstant : ∃ t, step midPass = .next t := ⟨_, rfl⟩

/-- One operation that owns nothing it is asked about. -/
theorem witness_StateIsWrittenByItsOwners :
    ∃ t, exec .bits busy = .next t ∧ (∀ d, Instr.bits ≠ .tick d) ∧ Instr.bits ≠ .sbReset ∧
      Instr.bits ≠ .drain ∧ (∀ id, Instr.bits ≠ .setsrc id) ∧ (∀ b, Instr.bits ≠ .sample b) ∧
      Instr.bits ≠ .dmReset := ⟨_, rfl, by simp⟩

theorem witness_ResetsAreIdempotent :
    busy.tickOpen = false ∧ on8.ticked = false := by decide

/-! ### The machine as the host runs it -/

/-- With nothing placed, reset goes on unchanged (70_reset_and_hazards.md R241). -/
theorem test_reset_is_idle : Sys2Proof.core.run 3 Sys2Proof.core.reset = .next State.reset := rfl

end Sys2Proof.Tests
end

/-!
PROOFS. The family of 10_state.md: the state after power-on and after `DM.RESET` (R39, R40), and the
frozen message (R33). What each Sample Buffer operation answers is said once, as an inversion lemma;
the Demodulator's frame follows from those.
-/

namespace Sys2Proof.Machine

/-! ### What a Sample Buffer operation that completes answers (40_sample_buffer.md) -/

/-- A tick's sub-step is T2 under an open tick, and otherwise T1 at a slot index (R120). -/
theorem execTick_cases {d : Bit} {s t : State} (h : execTick d s = .next t) :
    (s.tickOpen = true ∧
        t = { s with head := nextPointer s.cfg s.head, tickOpen := false }) ∨
      (s.tickOpen = false ∧ s.head < s.cfg.capacity ∧
        t = { s with mem := writeSlot s.mem s.head d, tickOpen := true, ticked := true }) := by
  unfold execTick at h
  split at h
  · next ho =>
    cases h
    exact Or.inl ⟨ho, rfl⟩
  · next ho =>
    unfold tickT1 at h
    split at h
    · next hh =>
      cases h
      exact Or.inr ⟨Bool.eq_false_iff.2 ho, hh, rfl⟩
    · cases h

/-- `SB.SETSRC` completes before the first T1 only, and selects the line (R121). -/
theorem execSetsrc_next {id : LineId} {s t : State} (h : execSetsrc id s = .next t) :
    s.ticked = false ∧ t = ({ s with inputSel := id }).returningNothing := by
  unfold execSetsrc at h
  split at h
  · cases h
  · next ht =>
    cases h
    exact ⟨Bool.eq_false_iff.2 ht, rfl⟩

/-- `SB.DRAIN` completes at a slot index, returns what stands there and moves `tail` (R123). -/
theorem execDrain_next {s t : State} (h : execDrain s = .next t) :
    s.tail < s.cfg.capacity ∧
      t = ({ s with
        tail := nextPointer s.cfg s.tail, draws := (memRead s s.tail).2 }).returning
          (zextBit (memRead s s.tail).1) := by
  unfold execDrain at h
  split at h
  · next ht =>
    cases h
    exact ⟨ht, rfl⟩
  · cases h

/-- `SB.RESET` waits under an open tick, and otherwise flushes the buffer (R124, 20_memory.md R71). -/
theorem execSbReset_cases {s t : State} (h : execSbReset s = .next t) :
    (s.tickOpen = true ∧ t = s) ∨
      (s.tickOpen = false ∧ t = ({ s with head := 0, tail := 0 }).returningNothing) := by
  unfold execSbReset at h
  split at h
  · next hw =>
    cases h
    exact Or.inl ⟨((waits_iff .sbReset s).1 hw).2, rfl⟩
  · next hw =>
    cases h
    exact Or.inr ⟨Bool.eq_false_iff.2 fun ho => hw ((waits_iff .sbReset s).2 ⟨rfl, ho⟩), rfl⟩

/-! ### The Demodulator's registers -/

/-- Two states agree on the Demodulator when they agree on its five elements (10_state.md R27 to
R31). -/
theorem demod_eq_iff (s t : State) :
    t.demod = s.demod ↔
      t.bitIndex = s.bitIndex ∧ t.msg = s.msg ∧ t.phase = s.phase ∧
        t.runLength = s.runLength ∧ t.lastLevel = s.lastLevel := by
  simp [State.demod]

/-- Only `DM.SAMPLE` and `DM.RESET` write the Demodulator (10_state.md R37). -/
theorem exec_keeps_demod {i : Instr} {s t : State} (hsample : ∀ b, i ≠ .sample b)
    (hreset : i ≠ .dmReset) (h : exec i s = .next t) : t.demod = s.demod := by
  cases i with
  | tick d => obtain ⟨-, rfl⟩ | ⟨-, -, rfl⟩ := execTick_cases h <;> rfl
  | setsrc id =>
    obtain ⟨-, rfl⟩ := execSetsrc_next h
    rfl
  | avail =>
    cases h
    rfl
  | drain =>
    obtain ⟨-, rfl⟩ := execDrain_next h
    rfl
  | sbReset => obtain ⟨-, rfl⟩ | ⟨-, rfl⟩ := execSbReset_cases h <;> rfl
  | sample b => exact absurd rfl (hsample b)
  | dmReset => exact absurd rfl hreset
  | bits =>
    cases h
    rfl
  | msgb k =>
    cases h
    rfl

/-- A sample that meets a complete message is ignored (41_demodulator.md R151). -/
theorem exec_sample_of_complete (b : Bit) {s : State} (hs : s.bitIndex = 128) :
    exec (.sample b) s = .next s.returningNothing :=
  if_pos ((isComplete_iff s).2 hs)

/-- No operation but `DM.RESET` changes a complete message (10_state.md R33). -/
theorem exec_keeps_demod_of_complete {i : Instr} {s t : State} (hs : s.bitIndex = 128)
    (hreset : i ≠ .dmReset) (h : exec i s = .next t) : t.demod = s.demod := by
  by_cases hsample : ∃ b, i = .sample b
  · obtain ⟨b, rfl⟩ := hsample
    rw [exec_sample_of_complete b hs] at h
    cases h
    rfl
  · exact exec_keeps_demod (not_exists.1 hsample) hreset h

/-- Settles O45: no operation but `DM.SAMPLE` and `DM.RESET` owns a Demodulator element, and on a
complete message `DM.SAMPLE` is frozen too. -/
theorem completeMessageIsFrozen : Obligations.CompleteMessageIsFrozen := by
  intro i s t hs hreset h
  exact (demod_eq_iff s t).1 (exec_keeps_demod_of_complete hs hreset h)

/-! ### Power-on and `DM.RESET` (10_state.md R39, R40) -/

/-- Nothing is pending where the pointers meet (R26). -/
theorem availableCount_eq_zero {s : State} (h : s.head = s.tail) : availableCount s = 0 := by
  simp [availableCount, h]

/-- `DM.RESET` completes from every state (41_demodulator.md R164). -/
theorem exec_dmReset (s : State) :
    exec .dmReset s = .next ({ s.cleared with lastLevel := false }).returningNothing := rfl

theorem demodFresh_powerOn (c : Cfg) : DemodFresh (State.powerOn c) := by
  simp [DemodFresh]

/-- A cleared Demodulator with `last_level` 0 is in its reset state, whatever stands on the bus. -/
theorem demodFresh_cleared (s : State) :
    DemodFresh ({ s.cleared with lastLevel := false }).returningNothing := by
  simp [DemodFresh]

/-- Settles O10. -/
theorem powerOnPointers : Obligations.PowerOnPointers := fun c =>
  ⟨State.powerOn_head c, State.powerOn_tail c, State.powerOn_tickOpen c,
    availableCount_eq_zero ((State.powerOn_head c).trans (State.powerOn_tail c).symm)⟩

/-- Settles O11. -/
theorem demodulatorResetState : Obligations.DemodulatorResetState :=
  ⟨demodFresh_powerOn, fun s => ⟨_, exec_dmReset s, demodFresh_cleared s⟩⟩

end Sys2Proof.Machine

/-!
PROOFS. The family of 41_demodulator.md: what `DM.SAMPLE` does to a complete message, to a level that
holds, and at a transition (R151 to R159). A transition is said once, through the class of the run it
ends; each class and phase is then one arm.
-/

namespace Sys2Proof.Machine

/-- An operation that ends with a free bus value and drew nothing before it returns nothing
(30_encoding.md R94). -/
theorem returnsNothing_of_exec {i : Instr} {s t : State} (hd : t.draws = s.draws)
    (h : exec i s = .next t.returningNothing) : ReturnsNothing i s t :=
  ⟨undefinedResult t.cfg t.draws, undefinedResult_lt t.cfg t.draws, by
    rw [h, State.returningNothing, hd]⟩

/-! ### The class of a run (41_demodulator.md R154) -/

theorem classify_eq_short_iff (c : Cfg) (l : Nat) :
    classify c l = .short ↔ c.minRun < l ∧ l < c.maxRun := by
  rcases classify_cases c l with ⟨e, h⟩ | ⟨e, h⟩ | ⟨e, h, -⟩
  · simp [e, h]
  · simp only [e, reduceCtorEq, false_iff]
    omega
  · simp [e, h]

theorem classify_eq_long_iff (c : Cfg) (l : Nat) :
    classify c l = .long ↔ c.maxRun < l ∧ l < 2 * c.maxRun := by
  rcases classify_cases c l with ⟨e, h⟩ | ⟨e, h⟩ | ⟨e, -, h⟩
  · simp only [e, reduceCtorEq, false_iff]
    omega
  · simp [e, h]
  · simp [e, h]

/-- Between the two windows only `MAX_RUN` itself is left out, once the configuration orders them
(00_scope.md R9). -/
theorem classify_eq_other_iff {c : Cfg} (hc : c.wf = true) (l : Nat) :
    classify c l = .other ↔ l ≤ c.minRun ∨ l = c.maxRun ∨ 2 * c.maxRun ≤ l := by
  obtain ⟨-, -, hwindow, -⟩ := (Cfg.wf_iff c).1 hc
  rcases classify_cases c l with ⟨e, h⟩ | ⟨e, h⟩ | ⟨e, h, h'⟩ <;>
    simp only [e, reduceCtorEq, true_iff, false_iff] <;> omega

/-- Settles O31: the strict windows, read as closed intervals. -/
theorem classificationWindows : Obligations.ClassificationWindows := by
  intro c l hc
  obtain ⟨-, -, hwindow, -⟩ := (Cfg.wf_iff c).1 hc
  refine ⟨?_, ?_, classify_eq_other_iff hc l⟩
  · rw [classify_eq_short_iff]
    omega
  · rw [classify_eq_long_iff]
    omega

/-! ### What `DM.SAMPLE` answers (41_demodulator.md R150 to R153) -/

/-- A sample of the level that holds counts, and rewrites `last_level` with itself (R152). -/
theorem exec_sample_of_same {s : State} (hs : s.bitIndex ≠ 128) :
    exec (.sample s.lastLevel) s =
      .next ({ s with runLength := satInc s.cfg s.runLength }).returningNothing := by
  show execSample s.lastLevel s = _
  rw [execSample, if_neg (mt (isComplete_iff s).1 hs), sampleBody, if_pos rfl, andThen_next]

/-- At a transition the latched run selects the arm, over a cleared counter; then `last_level` takes
the sample (R153, R161). -/
theorem exec_sample_of_transition {b : Bit} {s : State} (hs : s.bitIndex ≠ 128)
    (hb : b ≠ s.lastLevel) :
    exec (.sample b) s =
      andThen (classified (classify s.cfg s.runLength) { s with runLength := 0 }) fun t =>
        .next ({ t with lastLevel := b }).returningNothing := by
  show execSample b s = _
  rw [execSample, if_neg (mt (isComplete_iff s).1 hs), sampleBody, if_neg hb]

/-- A transition whose arm clears is a full reset; clearing the counter first adds nothing (R163). -/
theorem exec_sample_of_clears {b : Bit} {s : State} (hs : s.bitIndex ≠ 128) (hb : b ≠ s.lastLevel)
    (h : classified (classify s.cfg s.runLength) { s with runLength := 0 } =
      .next ({ s with runLength := 0 } : State).cleared) :
    exec (.sample b) s = .next ({ s.cleared with lastLevel := b }).returningNothing := by
  rw [exec_sample_of_transition hs hb, h, andThen_next]
  rfl

/-- Settles O29. -/
theorem sampleIgnoredWhenComplete : Obligations.SampleIgnoredWhenComplete :=
  fun b _ hs => returnsNothing_of_exec rfl (exec_sample_of_complete b hs)

/-- Settles O30. -/
theorem sampleOfSameLevelCounts : Obligations.SampleOfSameLevelCounts :=
  fun _ hs => returnsNothing_of_exec rfl (exec_sample_of_same hs)

/-! ### The arms of a transition (41_demodulator.md R156 to R159) -/

/-- Settles O35. -/
theorem shortPulseSecondHalfTogglesPhase : Obligations.ShortPulseSecondHalfTogglesPhase := by
  intro b s hs hb hmin hmax hp
  refine returnsNothing_of_exec rfl ?_
  have hclass := (classify_eq_short_iff s.cfg s.runLength).2 ⟨hmin, hmax⟩
  rw [exec_sample_of_transition hs hb, hclass,
    classified_short_second (s := { s with runLength := 0 }) hp, andThen_next]

/-- `append` writes its own cell and no other (R162). -/
theorem cellWritten_setMsgCell (m : BitVec 128) {i : Nat} (b : Bit) (hi : i < 128) :
    CellWritten m (setMsgCell m i b) i b := by
  intro j
  rw [msgCell_setMsgCell m j b hi]
  exact if_congr eq_comm rfl rfl

/-- Settles O36: the level written is the one held before the transition. -/
theorem longPulseSecondHalfAppends : Obligations.LongPulseSecondHalfAppends := by
  intro b s hs hb hmin hmax hp
  refine ⟨_, cellWritten_setMsgCell s.msg s.lastLevel hs, ?_⟩
  refine returnsNothing_of_exec rfl ?_
  have hclass := (classify_eq_long_iff s.cfg s.runLength).2 ⟨hmin, hmax⟩
  rw [exec_sample_of_transition hs.ne hb, hclass,
    classified_long_second (s := { s with runLength := 0 }) hp,
    append_next (s := { s with runLength := 0 }) hs, andThen_next]

/-- Settles O37. -/
theorem longPulseFirstHalfClears : Obligations.LongPulseFirstHalfClears := by
  intro b s hs hb hmin hmax hp
  refine returnsNothing_of_exec rfl (exec_sample_of_clears hs hb ?_)
  rw [(classify_eq_long_iff s.cfg s.runLength).2 ⟨hmin, hmax⟩]
  exact classified_long_first hp

/-- Settles O38. -/
theorem runInNoWindowClears : Obligations.RunInNoWindowClears := by
  intro b s hc hs hb hrun
  refine returnsNothing_of_exec rfl (exec_sample_of_clears hs hb ?_)
  rw [(classify_eq_other_iff hc s.runLength).2 hrun]
  exact classified_other _

end Sys2Proof.Machine

/-!
PROOFS. The family of 30_encoding.md: the decoder and the encoder are inverse to each other (R93,
R95, R97), and the legal command words are the 279 of the opcode map (R95, R96). A row is read
through the two fields of a word, and the decoder is then said once: it answers an operation just
where the encoder writes the word.
-/

namespace Sys2Proof

/-! ### The two fields of a command word (30_encoding.md R91) -/

theorem commandWord_toNat (op : BitVec 4) (arg : BitVec 8) :
    (commandWord op arg).toNat = 256 * op.toNat + arg.toNat := by
  have harg : arg.toNat < 2 ^ 8 := arg.isLt
  rw [commandWord, BitVec.toNat_append, Nat.shiftLeft_eq, Nat.mul_comm,
    ← Nat.two_pow_add_eq_or_of_lt harg]

theorem opField_toNat (w : CommandWord) : (opField w).toNat = w.toNat / 256 % 16 := by
  simp [opField, BitVec.extractLsb'_toNat, Nat.shiftRight_eq_div_pow]

theorem argField_toNat (w : CommandWord) : (argField w).toNat = w.toNat % 256 := by
  simp [argField, BitVec.extractLsb'_toNat]

/-- A word is its two fields. -/
theorem commandWord_fields (w : CommandWord) : commandWord (opField w) (argField w) = w := by
  have hw : w.toNat < 4096 := w.isLt
  apply BitVec.eq_of_toNat_eq
  rw [commandWord_toNat, opField_toNat, argField_toNat]
  omega

theorem commandWord_inj {op op' : BitVec 4} {arg arg' : BitVec 8} :
    commandWord op arg = commandWord op' arg' ↔ op = op' ∧ arg = arg' := by
  have harg := arg.isLt
  have harg' := arg'.isLt
  simp only [← BitVec.toNat_inj, commandWord_toNat]
  omega

theorem argField_commandWord (op : BitVec 4) (arg : BitVec 8) :
    argField (commandWord op arg) = arg := by
  have harg := arg.isLt
  apply BitVec.eq_of_toNat_eq
  rw [argField_toNat, commandWord_toNat]
  omega

/-! ### The rows of the opcode map, field by field (30_encoding.md R95) -/

/-- A row selects a word when each field of the word, masked, is the pattern's field. -/
theorem selects_commandWord (pop mop op : BitVec 4) (parg marg arg : BitVec 8) :
    OpcodeRow.selects ⟨commandWord pop parg, commandWord mop marg⟩ (commandWord op arg) = true ↔
      op &&& mop = pop ∧ arg &&& marg = parg := by
  have hand : commandWord op arg &&& commandWord mop marg =
      commandWord (op &&& mop) (arg &&& marg) := BitVec.and_append
  rw [OpcodeRow.selects, beq_iff_eq, hand, commandWord_inj]

/-- A row that fixes the whole word selects the word of its opcode with no argument. -/
theorem eq_of_selects_full (op : BitVec 4) {w : CommandWord}
    (h : OpcodeRow.selects ⟨commandWord op 0#8, 0xFFF#12⟩ w = true) : commandWord op 0#8 = w := by
  rw [OpcodeRow.selects, beq_iff_eq] at h
  exact h.symm.trans BitVec.and_allOnes

theorem rowSetsrc_selects (op : BitVec 4) (arg : BitVec 8) :
    rowSetsrc.selects (commandWord op arg) = true ↔ op = 0x1#4 := by
  have hop : op &&& 0xF#4 = op := BitVec.and_allOnes
  rw [show rowSetsrc = ⟨commandWord 0x1#4 0#8, commandWord 0xF#4 0#8⟩ from rfl, selects_commandWord,
    hop, BitVec.and_zero]
  simp

/-- `DM.SAMPLE` leaves its lowest argument bit free. -/
theorem rowSample_selects (op : BitVec 4) (arg : BitVec 8) :
    rowSample.selects (commandWord op arg) = true ↔ op = 0x5#4 ∧ arg &&& 0xFE#8 = 0#8 := by
  have hop : op &&& 0xF#4 = op := BitVec.and_allOnes
  rw [show rowSample = ⟨commandWord 0x5#4 0#8, commandWord 0xF#4 0xFE#8⟩ from rfl,
    selects_commandWord, hop]

/-- `DM.MSGB` leaves its four lowest argument bits free. -/
theorem rowMsgb_selects (op : BitVec 4) (arg : BitVec 8) :
    rowMsgb.selects (commandWord op arg) = true ↔ op = 0x8#4 ∧ arg &&& 0xF0#8 = 0#8 := by
  have hop : op &&& 0xF#4 = op := BitVec.and_allOnes
  rw [show rowMsgb = ⟨commandWord 0x8#4 0#8, commandWord 0xF#4 0xF0#8⟩ from rfl,
    selects_commandWord, hop]

/-! ### The decoder and the encoder (30_encoding.md R93, R95, R97) -/

/-- An argument with the seven upper bits clear is its lowest bit. -/
theorem zext_bit_of_masked {arg : BitVec 8} (h : arg &&& 0xFE#8 = 0#8) :
    0#7 ++ BitVec.ofBool (arg.getLsbD 0) = arg := by
  revert arg
  decide

/-- An argument with the four upper bits clear is its lower half. -/
theorem zext_nibble_of_masked {arg : BitVec 8} (h : arg &&& 0xF0#8 = 0#8) :
    0#4 ++ arg.extractLsb' 0 4 = arg := by
  revert arg
  decide

theorem getLsbD_zero_eq_argField (w : CommandWord) : w.getLsbD 0 = (argField w).getLsbD 0 := by
  simp [argField]

theorem extractLsb'_nibble_eq_argField (w : CommandWord) :
    w.extractLsb' 0 4 = (argField w).extractLsb' 0 4 := by
  ext k hk
  simp [argField]

theorem zext_bit_toNat (b : Bit) : (0#7 ++ BitVec.ofBool b).toNat = b.toNat := by
  cases b <;> rfl

theorem zext_nibble_toNat (k : BitVec 4) : (0#4 ++ k).toNat = k.toNat := by
  revert k
  decide

/-- What the decoder reads from a word encodes to that word. -/
theorem encode_of_decodeCommand {w : CommandWord} {i : Instr} (h : decodeCommand w = .ok i) :
    encode i = .command w := by
  obtain ⟨op, arg, rfl⟩ : ∃ op arg, w = commandWord op arg := ⟨_, _, (commandWord_fields w).symm⟩
  unfold decodeCommand at h
  split at h
  case isTrue hsel =>
    obtain rfl := (rowSetsrc_selects op arg).1 hsel
    cases h
    rw [argField_commandWord, encode]
  split at h
  case isTrue hsel =>
    cases h
    exact congrArg _ (eq_of_selects_full 0x2#4 hsel)
  split at h
  case isTrue hsel =>
    cases h
    exact congrArg _ (eq_of_selects_full 0x3#4 hsel)
  split at h
  case isTrue hsel =>
    cases h
    exact congrArg _ (eq_of_selects_full 0x4#4 hsel)
  split at h
  case isTrue hsel =>
    obtain ⟨rfl, harg⟩ := (rowSample_selects op arg).1 hsel
    cases h
    rw [getLsbD_zero_eq_argField, argField_commandWord, encode, zext_bit_of_masked harg]
  split at h
  case isTrue hsel =>
    cases h
    exact congrArg _ (eq_of_selects_full 0x6#4 hsel)
  split at h
  case isTrue hsel =>
    cases h
    exact congrArg _ (eq_of_selects_full 0x7#4 hsel)
  split at h
  case isTrue hsel =>
    obtain ⟨rfl, harg⟩ := (rowMsgb_selects op arg).1 hsel
    cases h
    rw [extractLsb'_nibble_eq_argField, argField_commandWord, encode, zext_nibble_of_masked harg]
  split at h <;> cases h

/-- Decoding the port word of an operation gives the operation back. -/
theorem decode_encode (i : Instr) : decode (encode i) = .ok i := by
  cases i with
  | tick d => rfl
  | setsrc id =>
    show decodeCommand (commandWord 0x1#4 id) = _
    rw [decodeCommand, if_pos ((rowSetsrc_selects 0x1#4 id).2 rfl), argField_commandWord]
  | avail => rfl
  | drain => rfl
  | sbReset => rfl
  | sample b => cases b <;> rfl
  | dmReset => rfl
  | bits => rfl
  | msgb k =>
    revert k
    show ∀ k : BitVec 4, decodeCommand (commandWord 0x8#4 (0#4 ++ k)) = .ok (.msgb k)
    decide

/-- The decoder, said once: a port word decodes to the operation whose encoding it is. -/
theorem decode_eq_ok_iff (p : PortWord) (i : Instr) : decode p = .ok i ↔ encode i = p := by
  refine ⟨fun h => ?_, fun h => h ▸ decode_encode i⟩
  cases p with
  | event d =>
    cases h
    rfl
  | command w => exact encode_of_decodeCommand h

/-- The command words that encode an operation, by value (30_encoding.md R95). -/
theorem exists_encode_iff (w : CommandWord) :
    (∃ i, encode i = .command w) ↔
      (0x100 ≤ w.toNat ∧ w.toNat ≤ 0x1FF) ∨ w.toNat = 0x200 ∨ w.toNat = 0x300 ∨
        w.toNat = 0x400 ∨ w.toNat = 0x500 ∨ w.toNat = 0x501 ∨ w.toNat = 0x600 ∨
        w.toNat = 0x700 ∨ (0x800 ≤ w.toNat ∧ w.toNat ≤ 0x80F) := by
  constructor
  · rintro ⟨i, h⟩
    cases i <;> simp only [encode, reduceCtorEq, PortWord.command.injEq] at h <;>
      have hw := congrArg BitVec.toNat h <;> rw [commandWord_toNat] at hw
    case setsrc id =>
      have hid := id.isLt
      simp at hw
      omega
    case sample b =>
      rw [zext_bit_toNat] at hw
      cases b <;> simp at hw <;> omega
    case msgb k =>
      have hk := k.isLt
      rw [zext_nibble_toNat] at hw
      simp at hw
      omega
    all_goals simp at hw; omega
  · have word_eq (v : CommandWord) (hv : w.toNat = v.toNat) : v = w :=
      BitVec.eq_of_toNat_eq hv.symm
    rintro (⟨hlo, hhi⟩ | h | h | h | h | h | h | h | ⟨hlo, hhi⟩)
    · refine ⟨.setsrc (argField w), congrArg _ (word_eq _ ?_)⟩
      rw [commandWord_toNat, argField_toNat]
      simp
      omega
    · exact ⟨.avail, congrArg _ (word_eq 0x200#12 h)⟩
    · exact ⟨.drain, congrArg _ (word_eq 0x300#12 h)⟩
    · exact ⟨.sbReset, congrArg _ (word_eq 0x400#12 h)⟩
    · exact ⟨.sample false, congrArg _ (word_eq 0x500#12 h)⟩
    · exact ⟨.sample true, congrArg _ (word_eq 0x501#12 h)⟩
    · exact ⟨.dmReset, congrArg _ (word_eq 0x600#12 h)⟩
    · exact ⟨.bits, congrArg _ (word_eq 0x700#12 h)⟩
    · refine ⟨.msgb (BitVec.ofNat 4 w.toNat), congrArg _ (word_eq _ ?_)⟩
      rw [commandWord_toNat, zext_nibble_toNat, BitVec.toNat_ofNat]
      simp
      omega

/-- Settles O1. -/
theorem decodeInvertsEncode : Obligations.DecodeInvertsEncode := decode_encode

/-- Settles O2: the converse half of the decoder's equivalence. -/
theorem encodeInvertsDecode : Obligations.EncodeInvertsDecode := fun p i =>
  (decode_eq_ok_iff p i).1

/-- Settles O3: a word decodes just where it is some operation's encoding. -/
theorem legalCommandWords : Obligations.LegalCommandWords := by
  intro w
  simp only [decode_eq_ok_iff]
  exact exists_encode_iff w

/-- Settles O4: each of the nine words is the encoding of its operation. -/
theorem specWordsDecode : Obligations.SpecWordsDecode :=
  ⟨decode_encode (.tick true), decode_encode (.setsrc 5#8), decode_encode .avail,
    decode_encode .drain, decode_encode .sbReset, decode_encode (.sample true),
    decode_encode .dmReset, decode_encode .bits, decode_encode (.msgb 15#4)⟩

end Sys2Proof

/-!
PROOFS. What each operation answers and leaves alone, said once for the proofs below: the registers
of the environment, the owners of each element (10_state.md R37), when an operation completes, and
the idempotent operations (20_memory.md R67).
-/

namespace Sys2Proof.Machine

/-! ### The operations that always complete, as equations -/

/-- `SB.AVAIL` returns the count (40_sample_buffer.md R122). -/
theorem exec_avail (s : State) : exec .avail s = .next (s.returning (availableCount s)) := rfl

/-- `DM.BITS` returns `bit_index` (41_demodulator.md R165). -/
theorem exec_bits (s : State) : exec .bits s = .next (s.returning s.bitIndex) := rfl

/-- `DM.MSGB k` returns byte `k` of the cells (41_demodulator.md R166). -/
theorem exec_msgb (k : BitVec 4) (s : State) :
    exec (.msgb k) s = .next (s.returning (msgByte s.msg k.toNat).toNat) := rfl

/-! ### The operations of the Sample Buffer where they are enabled (40_sample_buffer.md) -/

/-- T1 (R120). -/
theorem exec_tick_of_closed (d : Bit) {s : State} (ho : s.tickOpen = false)
    (hh : s.head < s.cfg.capacity) :
    exec (.tick d) s =
      .next { s with mem := writeSlot s.mem s.head d, tickOpen := true, ticked := true } := by
  show execTick d s = _
  rw [execTick, if_neg (by simp [ho]), tickT1, if_pos hh]

/-- T2 (R120). -/
theorem exec_tick_of_open (d : Bit) {s : State} (ho : s.tickOpen = true) :
    exec (.tick d) s =
      .next { s with head := nextPointer s.cfg s.head, tickOpen := false } := by
  show execTick d s = _
  rw [execTick, if_pos ho, tickT2]

theorem exec_setsrc_of_noTick (id : LineId) {s : State} (ht : s.ticked = false) :
    exec (.setsrc id) s = .next ({ s with inputSel := id }).returningNothing := by
  show execSetsrc id s = _
  rw [execSetsrc, if_neg (by simp [ht])]

theorem exec_drain {s : State} (ht : s.tail < s.cfg.capacity) :
    exec .drain s =
      .next (({ s with
        tail := nextPointer s.cfg s.tail, draws := (memRead s s.tail).2 }).returning
          (zextBit (memRead s s.tail).1)) := by
  show execDrain s = _
  rw [execDrain, if_pos ht]

theorem exec_sbReset_of_closed {s : State} (ho : s.tickOpen = false) :
    exec .sbReset s = .next ({ s with head := 0, tail := 0 }).returningNothing := by
  show execSbReset s = _
  rw [execSbReset, if_neg (by simp [waits, ho])]

theorem exec_sbReset_of_open {s : State} (ho : s.tickOpen = true) :
    exec .sbReset s = .next s := by
  show execSbReset s = _
  rw [execSbReset, if_pos (by simp [waits, ho])]

/-! ### What a Demodulator arm can do, whatever `bit_index` is (41_demodulator.md R155 to R163) -/

theorem append_of_full (b : Bit) {s : State} (hb : 128 ≤ s.bitIndex) :
    append b s = .fault .messageCellOutOfRange := if_neg (Nat.not_lt.2 hb)

theorem shortFirstHalf_of_full {s : State} (hb : 128 ≤ s.bitIndex) :
    shortFirstHalf s = .fault .messageCellOutOfRange := by
  have hno : correctionFires s = false := by
    simp only [correctionFires, Config.fixPos, Bool.and_eq_false_iff, beq_eq_false_iff_ne]
    omega
  rw [shortFirstHalf, correction, if_neg (by simp [hno]), andThen_next, append_of_full _ hb,
    andThen_fault]

/-- With no cell left to append to, an arm that completes appends nothing. -/
theorem classified_next_of_le {k : PulseClass} {s t : State} (hb : 128 ≤ s.bitIndex)
    (h : classified k s = .next t) : t = { s with phase := false } ∨ t = s.cleared := by
  rcases Bool.eq_false_or_eq_true s.phase with hp | hp <;> cases k
  · rw [classified_short_second hp] at h
    cases h
    exact Or.inl rfl
  · rw [classified_long_second hp, append_of_full _ hb] at h
    cases h
  · rw [classified_other] at h
    cases h
    exact Or.inr rfl
  · rw [classified_short_first hp, shortFirstHalf_of_full hb] at h
    cases h
  · rw [classified_long_first hp] at h
    cases h
    exact Or.inr rfl
  · rw [classified_other] at h
    cases h
    exact Or.inr rfl

/-! ### The Demodulator's next registers (41_demodulator.md R150 to R163) -/

/-- The correction's conditions on the registers (R160). -/
def Corrects (c : Cfg) (r : DemodRegs) : Prop :=
  c.fixEn = true ∧ r.bitIndex = 9 ∧ r.lastLevel = true

theorem demodNext_of_complete (c : Cfg) (b : Bit) {r : DemodRegs} (hc : r.bitIndex = 128) :
    demodNext c b r = r := if_pos hc

theorem demodNext_of_same (c : Cfg) {b : Bit} {r : DemodRegs} (hc : r.bitIndex ≠ 128)
    (hb : b = r.lastLevel) :
    demodNext c b r = { r with runLength := satInc c r.runLength } := by
  rw [demodNext, if_neg hc, if_pos hb]

section
variable {c : Cfg} {b : Bit} {r : DemodRegs} (hc : r.bitIndex ≠ 128) (hb : b ≠ r.lastLevel)
include hc hb

theorem demodNext_of_corrected (hk : classify c r.runLength = .short) (hp : r.phase = false)
    (hf : Corrects c r) :
    demodNext c b r = ⟨11, setMsgCell (setMsgCell r.msg 9 true) 10 true, true, 0, b⟩ := by
  rw [demodNext, if_neg hc, if_neg hb, hk, hp]
  exact if_pos hf

theorem demodNext_of_short_first (hk : classify c r.runLength = .short) (hp : r.phase = false)
    (hf : ¬Corrects c r) :
    demodNext c b r =
      ⟨r.bitIndex + 1, setMsgCell r.msg r.bitIndex r.lastLevel, true, 0, b⟩ := by
  rw [demodNext, if_neg hc, if_neg hb, hk, hp]
  exact if_neg hf

theorem demodNext_of_short_second (hk : classify c r.runLength = .short) (hp : r.phase = true) :
    demodNext c b r = ⟨r.bitIndex, r.msg, false, 0, b⟩ := by
  rw [demodNext, if_neg hc, if_neg hb, hk, hp]

theorem demodNext_of_long_second (hk : classify c r.runLength = .long) (hp : r.phase = true) :
    demodNext c b r =
      ⟨r.bitIndex + 1, setMsgCell r.msg r.bitIndex r.lastLevel, true, 0, b⟩ := by
  rw [demodNext, if_neg hc, if_neg hb, hk, hp]

theorem demodNext_of_clears
    (hk : classify c r.runLength = .other ∨ classify c r.runLength = .long ∧ r.phase = false) :
    demodNext c b r = ⟨0, 0#128, false, 0, b⟩ := by
  rw [demodNext, if_neg hc, if_neg hb]
  rcases hk with hk | ⟨hk, hp⟩
  · rw [hk]
  · rw [hk, hp]

end

/-- Everything a sample can do to the registers: nothing, count, append two cells, append one, end
the bit period, or clear. -/
theorem demodNext_cases (c : Cfg) (b : Bit) (r : DemodRegs) :
    (r.bitIndex = 128 ∧ demodNext c b r = r) ∨
      (r.bitIndex ≠ 128 ∧
        ((b = r.lastLevel ∧ demodNext c b r = { r with runLength := satInc c r.runLength }) ∨
          (b ≠ r.lastLevel ∧ classify c r.runLength = .short ∧ r.phase = false ∧ Corrects c r ∧
            demodNext c b r =
              ⟨11, setMsgCell (setMsgCell r.msg 9 true) 10 true, true, 0, b⟩) ∨
          demodNext c b r =
            ⟨r.bitIndex + 1, setMsgCell r.msg r.bitIndex r.lastLevel, true, 0, b⟩ ∨
          demodNext c b r = ⟨r.bitIndex, r.msg, false, 0, b⟩ ∨
          demodNext c b r = ⟨0, 0#128, false, 0, b⟩)) := by
  by_cases hc : r.bitIndex = 128
  · exact Or.inl ⟨hc, demodNext_of_complete c b hc⟩
  refine Or.inr ⟨hc, ?_⟩
  by_cases hb : b = r.lastLevel
  · exact Or.inl ⟨hb, demodNext_of_same c hc hb⟩
  refine Or.inr ?_
  rcases Bool.eq_false_or_eq_true r.phase with hp | hp <;> cases hk : classify c r.runLength
  · exact Or.inr (Or.inr (Or.inl (demodNext_of_short_second hc hb hk hp)))
  · exact Or.inr (Or.inl (demodNext_of_long_second hc hb hk hp))
  · exact Or.inr (Or.inr (Or.inr (demodNext_of_clears hc hb (Or.inl hk))))
  · by_cases hf : Corrects c r
    · exact Or.inl ⟨hb, rfl, hp, hf, demodNext_of_corrected hc hb hk hp hf⟩
    · exact Or.inr (Or.inl (demodNext_of_short_first hc hb hk hp hf))
  · exact Or.inr (Or.inr (Or.inr (demodNext_of_clears hc hb (Or.inr ⟨hk, hp⟩))))
  · exact Or.inr (Or.inr (Or.inr (demodNext_of_clears hc hb (Or.inl hk))))

/-- `bit_index` stays, grows by one, drops to 0, or grows by two where the correction fires. -/
theorem demodNext_bitIndex_cases (c : Cfg) (b : Bit) (r : DemodRegs) :
    (demodNext c b r).bitIndex = r.bitIndex ∨ (demodNext c b r).bitIndex = r.bitIndex + 1 ∨
      (demodNext c b r).bitIndex = 0 ∨
      (demodNext c b r).bitIndex = r.bitIndex + 2 ∧ b ≠ r.lastLevel ∧
        classify c r.runLength = .short ∧ r.phase = false ∧ Corrects c r := by
  rcases demodNext_cases c b r with
    ⟨-, e⟩ | ⟨-, ⟨-, e⟩ | ⟨hb, hk, hp, hf, e⟩ | e | e | e⟩ <;> rw [e]
  · exact Or.inl rfl
  · exact Or.inl rfl
  · have h9 : r.bitIndex = 9 := hf.2.1
    exact Or.inr (Or.inr (Or.inr ⟨by rw [h9], hb, hk, hp, hf⟩))
  · exact Or.inr (Or.inl rfl)
  · exact Or.inl rfl
  · exact Or.inr (Or.inr (Or.inl rfl))

/-- The sample becomes `last_level`, unless the message is complete (R161). -/
theorem demodNext_lastLevel (c : Cfg) (b : Bit) {r : DemodRegs} (hc : r.bitIndex ≠ 128) :
    (demodNext c b r).lastLevel = b := by
  rcases demodNext_cases c b r with
    ⟨h, -⟩ | ⟨-, ⟨hb, e⟩ | ⟨-, -, -, -, e⟩ | e | e | e⟩
  · exact absurd h hc
  · rw [e, hb]
  all_goals rw [e]

/-- Below `bit_index` the cells stay, unless the message is discarded (R162). -/
theorem demodNext_keeps_cells (c : Cfg) (b : Bit) {r : DemodRegs} (hle : r.bitIndex ≤ 128)
    (hgrow : r.bitIndex ≤ (demodNext c b r).bitIndex) {i : Nat} (hi : i < r.bitIndex) :
    msgCell (demodNext c b r).msg i = msgCell r.msg i := by
  rcases demodNext_cases c b r with
    ⟨-, e⟩ | ⟨hne, ⟨-, e⟩ | ⟨-, -, -, ⟨-, h9, -⟩, e⟩ | e | e | e⟩ <;> rw [e] at hgrow ⊢
  · show msgCell (setMsgCell (setMsgCell r.msg 9 true) 10 true) i = _
    rw [msgCell_setMsgCell _ _ _ (by omega), if_neg (by omega),
      msgCell_setMsgCell _ _ _ (by omega), if_neg (by omega)]
  · show msgCell (setMsgCell r.msg r.bitIndex r.lastLevel) i = _
    rw [msgCell_setMsgCell _ _ _ (by omega), if_neg (by omega)]
  · exact absurd (Nat.lt_of_lt_of_le hi hgrow) (Nat.not_lt_zero i)

/-! ### `DM.SAMPLE`, whatever `bit_index` is -/

/-- What a sample that completes leaves: only the Demodulator's registers and the bus may differ; it
keeps the cells decoded so far unless it discards them; and it becomes `last_level` (R161, R162). -/
theorem exec_sample_next {b : Bit} {s t : State} (h : exec (.sample b) s = .next t) :
    ∃ r : DemodRegs, t = (s.withDemod r).returningNothing ∧
      (s.bitIndex ≤ r.bitIndex → ∀ i, i < s.bitIndex → msgCell r.msg i = msgCell s.msg i) ∧
      (s.bitIndex ≠ 128 → r.lastLevel = b) := by
  by_cases hle : s.bitIndex ≤ 128
  · rw [exec_sample_eq b hle] at h
    cases h
    exact ⟨_, rfl, fun hgrow i => demodNext_keeps_cells s.cfg b (r := s.demod) hle hgrow,
      demodNext_lastLevel s.cfg b (r := s.demod)⟩
  have hne : s.bitIndex ≠ 128 := by omega
  by_cases hb : b = s.lastLevel
  · rw [hb, exec_sample_of_same hne] at h
    cases h
    exact ⟨{ s.demod with runLength := satInc s.cfg s.runLength }, rfl, fun _ _ _ => rfl,
      fun _ => hb.symm⟩
  · rw [exec_sample_of_transition hne hb] at h
    obtain ⟨u, hu, hut⟩ := andThen_eq_next.1 h
    cases hut
    have h128 : 128 ≤ ({ s with runLength := 0 } : State).bitIndex := Nat.le_of_not_le hle
    rcases classified_next_of_le h128 hu with rfl | rfl
    · exact ⟨⟨s.bitIndex, s.msg, false, 0, b⟩, rfl, fun _ _ _ => rfl, fun _ => rfl⟩
    · exact ⟨⟨0, 0#128, false, 0, b⟩, rfl,
        fun hgrow i hi => absurd (Nat.lt_of_lt_of_le hi hgrow) (Nat.not_lt_zero i), fun _ => rfl⟩

/-! ### What operations leave alone (10_state.md R23, R37) -/

/-- No operation writes the configuration, the schedule, the line levels, the command words, the
sequencer or the sink's record; and each element of the buffer is written by its owners only. -/
theorem exec_frame {i : Instr} {s t : State} (h : exec i s = .next t) :
    (t.cfg = s.cfg ∧ t.turns = s.turns ∧ t.lines = s.lines ∧ t.commands = s.commands ∧
        t.sequencer = s.sequencer ∧ t.delivered = s.delivered) ∧
      ((∀ d, i ≠ .tick d) → t.mem = s.mem ∧ t.tickOpen = s.tickOpen) ∧
      ((∀ d, i ≠ .tick d) → i ≠ .sbReset → t.head = s.head) ∧
      (i ≠ .drain → i ≠ .sbReset → t.tail = s.tail) ∧
      ((∀ id, i ≠ .setsrc id) → t.inputSel = s.inputSel) := by
  cases i with
  | tick d => obtain ⟨-, rfl⟩ | ⟨-, -, rfl⟩ := execTick_cases h <;> simp
  | setsrc id =>
    obtain ⟨-, rfl⟩ := execSetsrc_next h
    simp
  | avail =>
    cases h
    simp
  | drain =>
    obtain ⟨-, rfl⟩ := execDrain_next h
    simp
  | sbReset => obtain ⟨-, rfl⟩ | ⟨-, rfl⟩ := execSbReset_cases h <;> simp
  | sample b =>
    obtain ⟨r, rfl, -⟩ := exec_sample_next h
    simp [State.withDemod]
  | dmReset =>
    cases h
    simp
  | bits =>
    cases h
    simp
  | msgb k =>
    cases h
    simp

theorem exec_keeps_environment {i : Instr} {s t : State} (h : exec i s = .next t) :
    t.cfg = s.cfg ∧ t.turns = s.turns ∧ t.lines = s.lines ∧ t.commands = s.commands ∧
      t.sequencer = s.sequencer ∧ t.delivered = s.delivered := (exec_frame h).1

/-- Settles O58: the buffer's elements and the line by the frame, the Demodulator's by its own. -/
theorem stateIsWrittenByItsOwners : Obligations.StateIsWrittenByItsOwners := by
  intro i s t h
  obtain ⟨-, hmem, hhead, htail, hsel⟩ := exec_frame h
  exact ⟨hmem, hhead, htail, hsel, fun hsample hreset =>
    (demod_eq_iff s t).1 (exec_keeps_demod hsample hreset h)⟩

/-! ### Completion (20_memory.md R73, 60_exceptions.md R210) -/

/-- With the three indices in their spaces every operation completes, but for `SB.SETSRC` after the
first tick. -/
theorem exec_completes {i : Instr} {s : State} (hh : s.head < s.cfg.capacity)
    (ht : s.tail < s.cfg.capacity) (hb : s.bitIndex ≤ 128)
    (hsrc : (∀ id, i ≠ .setsrc id) ∨ s.ticked = false) : ∃ t, exec i s = .next t := by
  cases i with
  | tick d =>
    cases ho : s.tickOpen with
    | true => exact ⟨_, exec_tick_of_open d ho⟩
    | false => exact ⟨_, exec_tick_of_closed d ho hh⟩
  | setsrc id =>
    rcases hsrc with hsrc | hnone
    · exact absurd rfl (hsrc id)
    · exact ⟨_, exec_setsrc_of_noTick id hnone⟩
  | avail => exact ⟨_, exec_avail s⟩
  | drain => exact ⟨_, exec_drain ht⟩
  | sbReset =>
    cases ho : s.tickOpen with
    | true => exact ⟨_, exec_sbReset_of_open ho⟩
    | false => exact ⟨_, exec_sbReset_of_closed ho⟩
  | sample b => exact ⟨_, exec_sample_eq b hb⟩
  | dmReset => exact ⟨_, exec_dmReset s⟩
  | bits => exact ⟨_, exec_bits s⟩
  | msgb k => exact ⟨_, exec_msgb k s⟩

theorem exec_setsrc_of_ticked (id : LineId) {s : State} (ht : s.ticked = true) :
    exec (.setsrc id) s = .refused .setSourceAfterFirstTick := if_pos ht

/-- With the three indices in their spaces no operation faults. -/
theorem exec_ne_fault {i : Instr} {s : State} (r : Fault) (hh : s.head < s.cfg.capacity)
    (ht : s.tail < s.cfg.capacity) (hb : s.bitIndex ≤ 128) : exec i s ≠ .fault r := by
  intro hf
  by_cases hsrc : (∀ id, i ≠ .setsrc id) ∨ s.ticked = false
  · obtain ⟨t, h⟩ := exec_completes hh ht hb hsrc
    rw [hf] at h
    cases h
  · push Not at hsrc
    obtain ⟨⟨id, rfl⟩, hticked⟩ := hsrc
    rw [exec_setsrc_of_ticked id (Bool.not_eq_false _ ▸ hticked)] at hf
    cases hf

end Sys2Proof.Machine

/-!
PROOFS. The Sample Buffer, one operation at a time (40_sample_buffer.md), the resets, and where an
index outside its space faults (entry 15).
-/

namespace Sys2Proof.Machine

/-! ### Pointers and the pending count (10_state.md R26, 20_memory.md R75) -/

theorem wrapSucc_eq_nextPointer {c : Cfg} {p : Nat} (hp : p < c.capacity) :
    wrapSucc c p = nextPointer c p := (nextPointer_eq c hp).symm

/-- The remainder of a number less than two rounds. -/
theorem mod_eq_ite_of_lt_two_mul {a n : Nat} (h : a < 2 * n) :
    a % n = if a < n then a else a - n := by
  split
  · next hlt => exact Nat.mod_eq_of_lt hlt
  · next hge => rw [Nat.mod_eq_sub_mod (by omega), Nat.mod_eq_of_lt (by omega)]

/-- The count is the one number below `CAPACITY` that leads from `tail` to `head`. -/
theorem availableCount_eq_iff {s : State} {n : Nat} (hh : s.head < s.cfg.capacity)
    (ht : s.tail < s.cfg.capacity) (hn : n < s.cfg.capacity) :
    availableCount s = n ↔ (s.tail + n) % s.cfg.capacity = s.head := by
  rw [availableCount_eq hh ht, mod_eq_ite_of_lt_two_mul (by omega)]
  split <;> split <;> omega

/-- The count leads from `tail` to `head`. -/
theorem tail_add_availableCount {s : State} (hh : s.head < s.cfg.capacity)
    (ht : s.tail < s.cfg.capacity) :
    (s.tail + availableCount s) % s.cfg.capacity = s.head :=
  (availableCount_eq_iff hh ht (availableCount_lt s)).1 rfl

section
variable {s t : State} (hh : s.head < s.cfg.capacity) (ht : s.tail < s.cfg.capacity)
include hh ht

/-- Advancing `head` counts one more, modulo `CAPACITY`. -/
theorem availableCount_of_head_next (hcfg : t.cfg = s.cfg)
    (hhead : t.head = nextPointer s.cfg s.head) (htail : t.tail = s.tail) :
    availableCount t = (availableCount s + 1) % s.cfg.capacity := by
  have hlt := nextPointer_lt s.cfg s.head
  have ha := availableCount_lt s
  rw [availableCount_eq (s := t) (by rw [hhead, hcfg]; exact hlt) (by rw [htail, hcfg]; exact ht),
    mod_eq_ite_of_lt_two_mul (by omega), availableCount_eq hh ht, hcfg, hhead, htail,
    nextPointer_eq s.cfg hh]
  split_ifs <;> omega

/-- Advancing `tail` past a counted sample counts one less. -/
theorem availableCount_of_tail_next (hcfg : t.cfg = s.cfg) (hhead : t.head = s.head)
    (htail : t.tail = nextPointer s.cfg s.tail) (hne : s.head ≠ s.tail) :
    availableCount t = availableCount s - 1 := by
  have hlt := nextPointer_lt s.cfg s.tail
  rw [availableCount_eq (s := t) (by rw [hhead, hcfg]; exact hh) (by rw [htail, hcfg]; exact hlt),
    availableCount_eq hh ht, hcfg, hhead, htail, nextPointer_eq s.cfg ht]
  split_ifs <;> omega

/-- Advancing `tail` past `head` counts `CAPACITY - 1`. -/
theorem availableCount_of_underflow (hcfg : t.cfg = s.cfg) (hhead : t.head = s.head)
    (htail : t.tail = nextPointer s.cfg s.tail) (he : s.tail = s.head) :
    availableCount t = s.cfg.capacity - 1 := by
  have hlt := nextPointer_lt s.cfg s.tail
  rw [availableCount_eq (s := t) (by rw [hhead, hcfg]; exact hh) (by rw [htail, hcfg]; exact hlt),
    hcfg, hhead, htail, nextPointer_eq s.cfg ht]
  split_ifs <;> omega

theorem availableCount_eq_zero_iff : availableCount s = 0 ↔ s.head = s.tail := by
  rw [availableCount_eq hh ht]
  split <;> omega

end

/-! ### Ticks (40_sample_buffer.md R120) -/

/-- Settles O13. -/
theorem tickT1StoresAtHead : Obligations.TickT1StoresAtHead := by
  intro d s ho hh
  refine ⟨_, exec_tick_of_closed d ho hh, fun i => ?_⟩
  rw [readSlot_writeSlot]
  exact if_congr eq_comm rfl rfl

/-- Settles O14. -/
theorem tickT2PublishesHead : Obligations.TickT2PublishesHead := by
  intro d s ho hh
  rw [exec_tick_of_open d ho, wrapSucc_eq_nextPointer hh]

/-- Settles O24: `CAPACITY - 1` counted samples put `head` one slot before `tail`. -/
theorem fullLooksEmpty : Obligations.FullLooksEmpty := by
  intro s d ho hh ht hfull
  have hp := s.cfg.capacity_pos
  have hcount := availableCount_of_head_next (s := s)
    (t := { s with head := nextPointer s.cfg s.head, tickOpen := false }) hh ht rfl rfl rfl
  rw [hfull, Nat.sub_add_cancel hp, Nat.mod_self] at hcount
  have hmeet : nextPointer s.cfg s.head = s.tail :=
    (availableCount_eq_zero_iff
      (s := { s with head := nextPointer s.cfg s.head, tickOpen := false })
      (nextPointer_lt s.cfg s.head) ht).1 hcount
  refine ⟨?_, _, exec_tick_of_open d ho, hcount, rfl⟩
  simp [instrConditions, ho, hmeet]

/-! ### `SB.SETSRC`, `SB.AVAIL`, `SB.DRAIN`, `SB.RESET` (40_sample_buffer.md R121 to R124) -/

/-- Settles O15. -/
theorem setSourceSelectsLine : Obligations.SetSourceSelectsLine := fun id _ =>
  ⟨fun ht => returnsNothing_of_exec rfl (exec_setsrc_of_noTick id ht), exec_setsrc_of_ticked id⟩

/-- Settles O17. -/
theorem availReturnsPendingCount : Obligations.AvailReturnsPendingCount := fun s hh ht =>
  ⟨availableCount s, availableCount_lt s, tail_add_availableCount hh ht, exec_avail s⟩

/-- Settles O18. -/
theorem drainReturnsStoredSample : Obligations.DrainReturnsStoredSample := by
  intro s b ht hslot
  have hread : memRead s s.tail = (b, s.draws) := by rw [memRead, hslot]
  rw [Returns, exec_drain ht, hread, wrapSucc_eq_nextPointer ht]
  rfl

/-- Settles O19: the bit is the next free one. -/
theorem drainOfUnwrittenSlotCompletes : Obligations.DrainOfUnwrittenSlotCompletes := by
  intro s ht hslot
  have hread : memRead s s.tail = (Config.freeBit s.draws, s.draws + 1) := by rw [memRead, hslot]
  refine ⟨Config.freeBit s.draws, ?_⟩
  rw [Returns, exec_drain ht, hread, wrapSucc_eq_nextPointer ht]
  rfl

/-- Settles O20. -/
theorem bufferResetClearsPointersOrWaits : Obligations.BufferResetClearsPointersOrWaits := fun _ =>
  ⟨fun ho => returnsNothing_of_exec rfl (exec_sbReset_of_closed ho), exec_sbReset_of_open⟩

/-- Settles O25. -/
theorem underflowLeavesPhantoms : Obligations.UnderflowLeavesPhantoms := by
  intro s hh he
  have ht : s.tail < s.cfg.capacity := he ▸ hh
  refine ⟨?_, _, exec_drain ht, ?_, rfl, rfl⟩
  · simp [instrConditions, he]
  · exact availableCount_of_underflow hh ht rfl rfl rfl he

/-- One operation more, where the bus is recorded after each. -/
theorem execResults_cons_of_next {i : Instr} {s t : State} (is : List Instr)
    (h : exec i s = .next t) :
    execResults (i :: is) s =
      (execResults is t).map fun (u, vs) => (u, t.result :: vs) := by
  rw [execResults, h]

/-- Settles O21: T1 moves no pointer, so only T2 changes the count; neither puts a value on the
bus. -/
theorem snapshotCountsOnlyFinishedTicks : Obligations.SnapshotCountsOnlyFinishedTicks := by
  intro s d ho hh ht
  rw [← availableCount_of_head_next (s := s)
    (t := { s with head := nextPointer s.cfg s.head }) hh ht rfl rfl rfl]
  rw [execResults_cons_of_next _ (exec_tick_of_closed d ho hh),
    execResults_cons_of_next _ (exec_avail _),
    execResults_cons_of_next _ (exec_tick_of_open d rfl),
    execResults_cons_of_next _ (exec_avail _)]
  exact ⟨_, rfl⟩

/-! ### The Demodulator's reset and its count (41_demodulator.md R164, R165) -/

/-- Settles O42. -/
theorem demodResetClearsDemodulator : Obligations.DemodResetClearsDemodulator := fun s =>
  returnsNothing_of_exec rfl (exec_dmReset s)

/-- Settles O43. -/
theorem bitsReturnsBitIndex : Obligations.BitsReturnsBitIndex := exec_bits

/-- Settles O59: what the first execution set, the second sets again. -/
theorem resetsAreIdempotent : Obligations.ResetsAreIdempotent := by
  rintro i s (⟨rfl, ho⟩ | rfl | ⟨⟨id, rfl⟩, ht⟩)
  · exact ⟨_, _, exec_sbReset_of_closed ho, exec_sbReset_of_closed ho, rfl⟩
  · exact ⟨_, _, exec_dmReset s, exec_dmReset _, rfl⟩
  · exact ⟨_, _, exec_setsrc_of_noTick id ht, exec_setsrc_of_noTick id ht, rfl⟩

/-! ### Indices outside their spaces (20_memory.md R60, 41_demodulator.md R171; entry 15) -/

/-- Settles O28. -/
theorem indexOutsideItsSpaceFaults : Obligations.IndexOutsideItsSpaceFaults := by
  refine ⟨fun s d ho hh => ?_, fun s ht => if_neg (Nat.not_lt.2 ht),
    fun s b hb hne hp hmin hmax => ?_, fun s b hb hne hp hmin hmax => ?_,
    fun i s r hh ht hb => exec_ne_fault r hh ht hb⟩
  · show execTick d s = _
    rw [execTick, if_neg (by simp [ho]), tickT1, if_neg (Nat.not_lt.2 hh)]
  · have hk := (classify_eq_short_iff s.cfg s.runLength).2 ⟨hmin, hmax⟩
    rw [exec_sample_of_transition hb.ne' hne, hk,
      classified_short_first (s := { s with runLength := 0 }) hp,
      shortFirstHalf_of_full (s := { s with runLength := 0 }) hb.le, andThen_fault]
  · have hk := (classify_eq_long_iff s.cfg s.runLength).2 ⟨hmin, hmax⟩
    rw [exec_sample_of_transition hb.ne' hne, hk,
      classified_long_second (s := { s with runLength := 0 }) hp,
      append_of_full (s := { s with runLength := 0 }) _ hb.le, andThen_fault]

end Sys2Proof.Machine

/-!
PROOFS. One step of each agent (20_memory.md R68): the turn it takes, what a step that goes on can
be, and the statements about single steps.
-/

namespace Sys2Proof.Machine

/-! ### Whose turn it is -/

section
variable {s : State} {rest : List Turn} (hw : s.cfg.wf = true)
include hw

theorem step_of_consumer (ht : s.turns = .consumer :: rest) :
    step s = consumerTurn { s with turns := rest } := by
  rw [step_eq_takeTurn hw, takeTurn, ht]

theorem step_of_sampler (ht : s.turns = .sampler :: rest) :
    step s = samplerTurn { s with turns := rest } := by
  rw [step_eq_takeTurn hw, takeTurn, ht]

theorem step_of_sink {copied : Bool} (ht : s.turns = .sink copied :: rest) :
    step s = .next (sinkTurn copied { s with turns := rest }) := by
  rw [step_eq_takeTurn hw, takeTurn, ht]

end

theorem runSteps_succ_of_next (k : Nat) {s t : State} (h : step s = .next t) :
    runSteps (k + 1) s = runSteps k t := by
  rw [runSteps_succ, h, andThen_next]

/-! ### The sampler's turn (30_encoding.md R92) -/

theorem samplerTurn_of_open {s : State} (d : Bit) (ho : s.tickOpen = true) :
    samplerTurn s = exec (.tick d) s := by
  rw [samplerTurn, if_pos ho, exec_tick_of_open false ho, exec_tick_of_open d ho]

theorem samplerTurn_of_due {s : State} {levels : LineLevels} {ls : List LineLevels}
    (ho : s.tickOpen = false) (hl : s.lines = levels :: ls) :
    samplerTurn s = exec (.tick (lineLevel levels s.inputSel)) { s with lines := ls } := by
  rw [samplerTurn, if_neg (by simp [ho]), hl]

/-! ### The consumer's turn (30_encoding.md R90, R96, 20_memory.md R71) -/

theorem consumerTurn_of_word {s : State} {w : CommandWord} {ws : List CommandWord}
    (hc : s.commands = w :: ws) : consumerTurn s = commandTurn w ws s := by
  rw [consumerTurn, hc]

theorem consumerTurn_of_point {s : State} {p : SeqPoint} (hc : s.commands = [])
    (hp : s.sequencer = some p) : consumerTurn s = sequencerTurn p s := by
  rw [consumerTurn, hc, hp]

theorem commandTurn_of_decode {s : State} {w : CommandWord} (ws : List CommandWord) {i : Instr}
    (hd : decode (.command w) = .ok i) (hn : ¬(i = .sbReset ∧ s.tickOpen = true)) :
    commandTurn w ws s = exec i { s with commands := ws } := by
  rw [commandTurn, hd]
  exact if_neg (mt (waits_iff i s).1 hn)

theorem commandTurn_of_wait {s : State} {w : CommandWord} (ws : List CommandWord)
    (hd : decode (.command w) = .ok .sbReset) (ho : s.tickOpen = true) :
    commandTurn w ws s = .next s := by
  rw [commandTurn, hd]
  exact if_pos ((waits_iff .sbReset s).2 ⟨rfl, ho⟩)

theorem commandTurn_of_reserved {s : State} {w : CommandWord} (ws : List CommandWord)
    {e : DecodeError} (hd : decode (.command w) = .error e) :
    commandTurn w ws s = .refused (.reservedWord e) := by
  rw [commandTurn, hd]

/-! ### The sequencer's next point (42_sequencer.md R190 to R192) -/

theorem seqAfter_check_of_complete (c : Cfg) (left : Nat) {v : Nat} (h : v = 128) :
    seqAfter c (.check left) v = .deliver left [] := if_pos h

theorem seqAfter_check_of_incomplete (c : Cfg) (left : Nat) {v : Nat} (h : v ≠ 128) :
    seqAfter c (.check left) v = nextDrain left := if_neg h

theorem afterByte_of_lt (left : Nat) {taken : List Byte} (h : taken.length < 16) :
    afterByte left taken = .deliver left taken := if_pos h

theorem afterByte_of_full (left : Nat) {taken : List Byte} (h : taken.length = 16) :
    afterByte left taken = .handOver left taken := if_neg (by simp [Config.msgBytes, h])

/-- The point after a byte: the byte of the message with the next number is taken. -/
theorem seqAfter_deliver (c : Cfg) (left : Nat) (m : BitVec 128) {n : Nat} (hn : n < 16) :
    seqAfter c (.deliver left (msgBytesTo m n)) (msgByte m (BitVec.ofNat 4 n).toNat).toNat =
      afterByte left (msgBytesTo m (n + 1)) := by
  have hk : (BitVec.ofNat 4 n).toNat = n := by
    rw [BitVec.toNat_ofNat]
    exact Nat.mod_eq_of_lt hn
  rw [seqAfter, hk, BitVec.ofNat_toNat, BitVec.setWidth_eq, ← msgBytesTo_succ]

/-! ### The sequencer's turn (42_sequencer.md R190 to R192) -/

theorem sequencerTurn_of_wait {s : State} {p : SeqPoint} {i : Instr} (hi : seqInstr p = some i)
    (hwait : waits i s = true) : sequencerTurn p s = .next s := by
  rw [sequencerTurn, hi]
  exact if_pos hwait

theorem sequencerTurn_of_exec {s : State} {p : SeqPoint} {i : Instr} (hi : seqInstr p = some i)
    (hn : waits i s = false) :
    sequencerTurn p s = andThen (exec i s) fun t =>
      .next { t with sequencer := some (seqAfter t.cfg p t.result) } := by
  rw [sequencerTurn, hi]
  exact if_neg (by simp [hn])

theorem sequencerTurn_of_handOver {s : State} {p : SeqPoint} (hi : seqInstr p = none) :
    sequencerTurn p s = .next s := by
  rw [sequencerTurn, hi]

section
variable {s : State} {rest : List Turn} {p : SeqPoint} {i : Instr} (hw : s.cfg.wf = true)
  (ht : s.turns = .consumer :: rest) (hc : s.commands = []) (hp : s.sequencer = some p)
include hw ht hc hp

/-- The consumer's step at a point of the sequencer whose operation completes. -/
theorem step_of_point {t : State} (hi : seqInstr p = some i)
    (hn : i = .sbReset → s.tickOpen = false) (hx : exec i { s with turns := rest } = .next t) :
    step s = .next { t with sequencer := some (seqAfter t.cfg p t.result) } := by
  have hwait : waits i { s with turns := rest } = false :=
    Bool.eq_false_iff.2 fun hwait => by
      obtain ⟨hi', ho⟩ := (waits_iff i _).1 hwait
      exact absurd ((hn hi').symm.trans ho) Bool.false_ne_true
  rw [step_of_consumer hw ht, consumerTurn_of_point (s := { s with turns := rest }) hc hp,
    sequencerTurn_of_exec hi hwait, hx, andThen_next]

theorem step_of_handOver (hi : seqInstr p = none) : step s = .next { s with turns := rest } := by
  rw [step_of_consumer hw ht, consumerTurn_of_point (s := { s with turns := rest }) hc hp,
    sequencerTurn_of_handOver hi]

theorem step_of_waiting_point (hi : seqInstr p = some .sbReset) (ho : s.tickOpen = true) :
    step s = .next { s with turns := rest } := by
  rw [step_of_consumer hw ht, consumerTurn_of_point (s := { s with turns := rest }) hc hp,
    sequencerTurn_of_wait hi ((waits_iff .sbReset { s with turns := rest }).2 ⟨rfl, ho⟩)]

end

/-! ### The sink's turn (42_sequencer.md R192, 60_exceptions.md R213) -/

theorem sinkTurn_of_copied {s : State} {left : Nat} {offered : List Byte}
    (hp : s.sequencer = some (.handOver left offered)) :
    sinkTurn true s =
      { s with delivered := s.delivered ++ [offered], sequencer := some (.release left) } := by
  unfold sinkTurn
  rw [hp]

theorem sinkTurn_of_failed (s : State) : sinkTurn false s = s := by
  unfold sinkTurn
  split
  · next h => cases h
  · rfl

/-! ### Everything a step can be -/

/-- What an agent's turn answers: nothing happens but the turn; or the sink copies; or one
operation is executed, a sub-step of a tick, the consumer's next word, or that of the sequencer's
point, which then moves on; or a reserved word is refused. -/
inductive TurnShape (s : State) (a : Answer) : Prop where
  | idle (rest : List Turn) (h : a = .next { s with turns := rest })
  | copy (rest : List Turn) (left : Nat) (offered : List Byte)
      (hp : s.sequencer = some (.handOver left offered))
      (h : a = .next { s with
        turns := rest, delivered := s.delivered ++ [offered], sequencer := some (.release left) })
  | tick (rest : List Turn) (ls : List LineLevels) (d : Bit)
      (h : a = exec (.tick d) { s with turns := rest, lines := ls })
  | word (rest : List Turn) (w : CommandWord) (ws : List CommandWord) (i : Instr)
      (hc : s.commands = w :: ws) (h : a = exec i { s with turns := rest, commands := ws })
  | reserved (w : CommandWord) (ws : List CommandWord) (e : DecodeError)
      (hc : s.commands = w :: ws) (h : a = .refused (.reservedWord e))
  | point (rest : List Turn) (p : SeqPoint) (i : Instr) (hc : s.commands = [])
      (hp : s.sequencer = some p) (hi : seqInstr p = some i)
      (h : a = andThen (exec i { s with turns := rest }) fun t =>
        .next { t with sequencer := some (seqAfter t.cfg p t.result) })

theorem samplerTurn_shape (s : State) (rest : List Turn) :
    TurnShape s (samplerTurn { s with turns := rest }) := by
  unfold samplerTurn
  split
  · exact .tick rest s.lines false rfl
  · split
    · exact .idle rest rfl
    · next levels ls _ => exact .tick rest ls _ rfl

theorem commandTurn_shape {s : State} {w : CommandWord} {ws : List CommandWord}
    (hc : s.commands = w :: ws) (rest : List Turn) :
    TurnShape s (commandTurn w ws { s with turns := rest }) := by
  unfold commandTurn
  split
  · next e _ => exact .reserved w ws e hc rfl
  · next i _ =>
    split
    · exact .idle rest rfl
    · exact .word rest w ws i hc rfl

theorem sequencerTurn_shape {s : State} {p : SeqPoint} (hc : s.commands = [])
    (hp : s.sequencer = some p) (rest : List Turn) :
    TurnShape s (sequencerTurn p { s with turns := rest }) := by
  unfold sequencerTurn
  split
  · exact .idle rest rfl
  · next i hi =>
    split
    · exact .idle rest rfl
    · exact .point rest p i hc hp hi rfl

theorem consumerTurn_shape (s : State) (rest : List Turn) :
    TurnShape s (consumerTurn { s with turns := rest }) := by
  unfold consumerTurn
  split
  · next hc => exact commandTurn_shape (s := s) hc rest
  · next hc =>
    split
    · exact .idle rest rfl
    · next hp => exact sequencerTurn_shape (s := s) hc hp rest

theorem sinkTurn_shape (copied : Bool) (s : State) (rest : List Turn) :
    TurnShape s (.next (sinkTurn copied { s with turns := rest })) := by
  unfold sinkTurn
  split
  · next left offered hp => exact .copy rest left offered hp rfl
  · exact .idle rest rfl

theorem takeTurn_shape (s : State) : TurnShape s (takeTurn s) := by
  unfold takeTurn
  split
  · next ht => exact .idle [] (by rw [← ht])
  · next rest _ => exact samplerTurn_shape s rest
  · next rest _ => exact consumerTurn_shape s rest
  · next copied rest _ => exact sinkTurn_shape copied s rest

/-- Settles O57: no operation, and nothing else in a turn, writes the configuration. -/
theorem configurationIsConstant : Obligations.ConfigurationIsConstant := by
  intro s t h
  obtain ⟨-, hturn⟩ := step_next h
  cases hturn ▸ takeTurn_shape s with
  | idle rest h =>
    cases h
    rfl
  | copy rest left offered hp h =>
    cases h
    rfl
  | tick rest ls d h => exact (exec_keeps_environment h.symm).1
  | word rest w ws i hc h => exact (exec_keeps_environment h.symm).1
  | reserved w ws e hc h => cases h
  | point rest p i hc hp hi h =>
    obtain ⟨u, hu, e⟩ := andThen_eq_next.1 h.symm
    cases e
    exact (exec_keeps_environment hu).1

/-! ### Single steps (20_memory.md R68, 30_encoding.md R90 to R96) -/

/-- Settles O5. -/
theorem consumerStepRunsDecodedWord : Obligations.ConsumerStepRunsDecodedWord := by
  intro s rest w ws i hw ht hc hd hn
  rw [step_of_consumer hw ht, consumerTurn_of_word (s := { s with turns := rest }) hc]
  exact commandTurn_of_decode (s := { s with turns := rest }) ws hd hn

/-- Settles O6. -/
theorem samplerStepRunsTick : Obligations.SamplerStepRunsTick := by
  refine ⟨fun s rest levels ls hw ht ho hl => ?_, fun s rest d hw ht ho => ?_⟩
  · rw [step_of_sampler hw ht, samplerTurn_of_due (s := { s with turns := rest }) ho hl]
    rfl
  · rw [step_of_sampler hw ht, samplerTurn_of_open (s := { s with turns := rest }) d ho]

/-- A word that waits for an open tick costs the turn alone. -/
theorem step_of_waiting_word {s : State} {rest : List Turn} {ws : List CommandWord}
    (hw : s.cfg.wf = true) (ht : s.turns = .consumer :: rest) (hc : s.commands = 0x400#12 :: ws)
    (ho : s.tickOpen = true) : step s = .next { s with turns := rest } := by
  rw [step_of_consumer hw ht, consumerTurn_of_word (s := { s with turns := rest }) hc]
  exact commandTurn_of_wait (s := { s with turns := rest }) ws (decode_encode .sbReset) ho

/-- Settles O7: the consumer waits, T2 closes the tick, and the same word is then executed. -/
theorem openTickHoldsBufferReset : Obligations.OpenTickHoldsBufferReset := by
  intro s ws hw ho hc
  refine ⟨fun rest ht => step_of_waiting_word hw ht hc ho, fun rest ht => ?_⟩
  have hwait := step_of_waiting_word hw ht hc ho
  have htick := (samplerStepRunsTick.2
    { s with turns := .sampler :: .consumer :: rest } (.consumer :: rest) false hw rfl ho).trans
      (exec_tick_of_open false ho)
  have hreset := (consumerStepRunsDecodedWord
    { s with turns := .consumer :: rest, head := nextPointer s.cfg s.head, tickOpen := false }
    rest 0x400#12 ws .sbReset hw rfl hc (decode_encode .sbReset) (by simp)).trans
      (exec_sbReset_of_closed rfl)
  rw [runSteps_succ_of_next 2 hwait, runSteps_succ_of_next 1 htick, runSteps_succ_of_next 0 hreset]
  exact ⟨_, rfl, rfl, rfl, rfl, rfl, rfl, rfl⟩

/-- Settles O8. -/
theorem reservedWordRefused : Obligations.ReservedWordRefused := by
  intro s rest w ws hw ht hc hreserved
  cases hd : decode (.command w) with
  | ok i => exact absurd ⟨i, hd⟩ hreserved
  | error e =>
    refine ⟨e, ?_⟩
    rw [step_of_consumer hw ht, consumerTurn_of_word (s := { s with turns := rest }) hc,
      commandTurn_of_reserved ws hd]

/-- Settles O9. -/
theorem illegalConfigurationRefused : Obligations.IllegalConfigurationRefused := by
  intro s hillegal
  refine if_neg fun hw => ?_
  obtain ⟨hptr, hthreshold, hwindow, hcounter⟩ := (Cfg.wf_iff s.cfg).1 hw
  unfold Cfg.capacity at hthreshold
  unfold Cfg.runMax at hcounter
  omega

/-! ### Boot and the selected line (70_reset_and_hazards.md R242, 40_sample_buffer.md R121) -/

/-- The consumer's step on `SB.SETSRC id` before the first tick. -/
theorem step_of_setsrc {s : State} {rest : List Turn} {id : LineId} {ws : List CommandWord}
    (hw : s.cfg.wf = true) (ht : s.turns = .consumer :: rest)
    (hc : s.commands = commandWord 0x1#4 id :: ws) (hnone : s.ticked = false) :
    step s =
      .next ({ s with turns := rest, commands := ws, inputSel := id }).returningNothing :=
  (consumerStepRunsDecodedWord s rest _ ws (.setsrc id) hw ht hc (decode_encode (.setsrc id))
    (by simp)).trans (exec_setsrc_of_noTick id hnone)

/-- Settles O12. -/
theorem bootSelectsLineThenLoops : Obligations.BootSelectsLineThenLoops := by
  intro c id rest hw
  exact ⟨_, step_of_setsrc hw rfl rfl rfl, rfl, rfl, rfl, rfl, demodFresh_powerOn c, rfl, rfl, rfl⟩

/-- Settles O16. -/
theorem selectedLineIsSampled : Obligations.SelectedLineIsSampled := by
  intro s id w ws rest levels ls hw hnone ho hh hword hc hl ht
  obtain rfl : w = commandWord 0x1#4 id := BitVec.eq_of_toNat_eq (by
    rw [hword, commandWord_toNat]
    rfl)
  have hselect := step_of_setsrc hw ht hc hnone
  have hsample := (samplerStepRunsTick.1
    ({ s with turns := .sampler :: rest, commands := ws, inputSel := id }).returningNothing
    rest levels ls hw rfl ho hl).trans (exec_tick_of_closed _ ho hh)
  rw [runSteps_succ_of_next 1 hselect, runSteps_succ_of_next 0 hsample]
  exact ⟨_, rfl, rfl, rfl, (readSlot_writeSlot _ _ _ _).trans (if_pos rfl)⟩

end Sys2Proof.Machine

/-!
PROOFS. The machine as a whole: the invariant holds at power-on, every step keeps it, and under it
no step faults and the sequencer never stops (10_state.md, 41_demodulator.md section 4,
42_sequencer.md). The invariant is split into what it says of the block, kept by every operation,
and what it says of the hand-over, kept by every turn.
-/

namespace Sys2Proof.Machine

/-! ### What the invariant says of the Demodulator's registers -/

/-- The Demodulator's part of the invariant, on its registers. -/
structure DemodInv (c : Cfg) (r : DemodRegs) : Prop where
  runLe : r.runLength ≤ c.runMax
  bitLe : r.bitIndex ≤ 128
  syncPhase : r.bitIndex = 0 → r.phase = false
  msgClear : ∀ i, r.bitIndex ≤ i → msgCell r.msg i = false

/-- The cleared registers meet it, whatever `last_level` is. -/
theorem demodInv_cleared (c : Cfg) (b : Bit) : DemodInv c ⟨0, 0#128, false, 0, b⟩ where
  runLe := Nat.zero_le _
  bitLe := Nat.zero_le _
  syncPhase _ := rfl
  msgClear i _ := msgCell_zero i

/-- Writing the cell at `bit_index` and counting it leaves the cells above clear (R162). -/
theorem msgCell_append_clear {m : BitVec 128} {n : Nat} (b : Bit)
    (hclear : ∀ i, n ≤ i → msgCell m i = false) (hn : n < 128) :
    ∀ i, n + 1 ≤ i → msgCell (setMsgCell m n b) i = false := by
  intro i hi
  rw [msgCell_setMsgCell m i b hn, if_neg (by omega), hclear i (by omega)]

/-- Every sample keeps it. -/
theorem demodNext_keeps_demodInv {c : Cfg} (b : Bit) {r : DemodRegs} (h : DemodInv c r) :
    DemodInv c (demodNext c b r) := by
  obtain ⟨hrun, hbit, hphase, hclear⟩ := h
  rcases demodNext_cases c b r with
    ⟨-, e⟩ | ⟨hne, ⟨-, e⟩ | ⟨-, -, -, ⟨-, h9, -⟩, e⟩ | e | e | e⟩ <;> rw [e]
  · exact ⟨hrun, hbit, hphase, hclear⟩
  · exact ⟨(satInc_le hrun).2.1, hbit, hphase, hclear⟩
  · rw [h9] at hclear
    have hten := msgCell_append_clear true hclear (by omega)
    exact ⟨Nat.zero_le _, by dsimp only; omega, nofun, msgCell_append_clear true hten (by omega)⟩
  · have hlt : r.bitIndex < 128 := by omega
    exact ⟨Nat.zero_le _, hlt, nofun, msgCell_append_clear r.lastLevel hclear hlt⟩
  · exact ⟨Nat.zero_le _, hbit, fun _ => rfl, hclear⟩
  · exact demodInv_cleared c b

/-! ### What the invariant says of the block -/

/-- The invariant without the hand-over: a condition on the ten elements, the bus and the model's
tick bit, in which the schedule, the words and the sequencer do not occur. -/
structure BlockInv (s : State) : Prop where
  cfgWf : s.cfg.wf = true
  headLt : s.head < s.cfg.capacity
  tailLt : s.tail < s.cfg.capacity
  memWf : Memory.wf s.cfg s.mem = true
  demod : DemodInv s.cfg s.demod
  resultLt : s.result < 2 ^ s.cfg.resW
  openTicked : s.tickOpen = true → s.ticked = true

theorem Invariant.block {s : State} (h : Invariant s) : BlockInv s where
  cfgWf := h.cfgWf
  headLt := h.headLt
  tailLt := h.tailLt
  memWf := h.memWf
  demod := ⟨h.runLe, h.bitLe, h.syncPhase, h.msgClear⟩
  resultLt := h.resultLt
  openTicked := h.openTicked

theorem BlockInv.invariant {s : State} (h : BlockInv s) (hand : handOverInv s) : Invariant s where
  cfgWf := h.cfgWf
  headLt := h.headLt
  tailLt := h.tailLt
  memWf := h.memWf
  runLe := h.demod.runLe
  bitLe := h.demod.bitLe
  syncPhase := h.demod.syncPhase
  msgClear := h.demod.msgClear
  resultLt := h.resultLt
  openTicked := h.openTicked
  handOver := hand

theorem blockInv_powerOn {c : Cfg} (hw : c.wf = true) : BlockInv (State.powerOn c) where
  cfgWf := hw
  headLt := c.capacity_pos
  tailLt := c.capacity_pos
  memWf := wf_powerOn c
  demod := demodInv_cleared c false
  resultLt := Nat.two_pow_pos _
  openTicked := nofun

/-- Settles O54. -/
theorem powerOnMeetsInvariant : Obligations.PowerOnMeetsInvariant :=
  ⟨fun _ hw => (blockInv_powerOn hw).invariant trivial,
    (blockInv_powerOn (c := Config.example64) (by decide)).invariant trivial⟩

theorem BlockInv.returning {s : State} (h : BlockInv s) {v : Nat} (hv : v < 2 ^ s.cfg.resW) :
    BlockInv (s.returning v) := { h with resultLt := hv }

theorem BlockInv.returningNothing {s : State} (h : BlockInv s) : BlockInv s.returningNothing :=
  { h with resultLt := undefinedResult_lt s.cfg s.draws }

theorem BlockInv.withDemod {s : State} (h : BlockInv s) {r : DemodRegs} (hr : DemodInv s.cfg r) :
    BlockInv (s.withDemod r) := { h with demod := hr }

/-- A value below 256 fits the bus. -/
theorem lt_bus_of_lt_byte {c : Cfg} {n : Nat} (h : n < 256) : n < 2 ^ c.resW :=
  Nat.lt_of_lt_of_le h c.byte_le_bus

/-- Every operation keeps the block's invariant. -/
theorem exec_keeps_blockInv {i : Instr} {s t : State} (h : BlockInv s) (hx : exec i s = .next t) :
    BlockInv t := by
  cases i with
  | tick d =>
    obtain ⟨-, rfl⟩ | ⟨-, hh, rfl⟩ := execTick_cases hx
    · exact { h with headLt := nextPointer_lt s.cfg s.head, openTicked := nofun }
    · exact { h with memWf := wf_writeSlot h.memWf hh, openTicked := fun _ => rfl }
  | setsrc id =>
    obtain ⟨-, rfl⟩ := execSetsrc_next hx
    exact BlockInv.returningNothing { h with }
  | avail =>
    cases hx
    exact h.returning (Nat.lt_of_lt_of_le (availableCount_lt s) s.cfg.capacity_le_bus)
  | drain =>
    obtain ⟨-, rfl⟩ := execDrain_next hx
    have hbit : zextBit (memRead s s.tail).1 < 256 :=
      Nat.lt_of_le_of_lt (Bool.toNat_le _) (by decide)
    have hnext : BlockInv { s with
        tail := nextPointer s.cfg s.tail, draws := (memRead s s.tail).2 } :=
      { h with tailLt := nextPointer_lt s.cfg s.tail }
    exact hnext.returning (lt_bus_of_lt_byte hbit)
  | sbReset =>
    obtain ⟨-, rfl⟩ | ⟨-, rfl⟩ := execSbReset_cases hx
    · exact h
    · exact BlockInv.returningNothing
        { h with headLt := s.cfg.capacity_pos, tailLt := s.cfg.capacity_pos }
  | sample b =>
    rw [exec_sample_eq b h.demod.bitLe] at hx
    cases hx
    exact (h.withDemod (demodNext_keeps_demodInv b h.demod)).returningNothing
  | dmReset =>
    cases hx
    exact (h.withDemod (demodInv_cleared s.cfg false)).returningNothing
  | bits =>
    cases hx
    exact h.returning (lt_bus_of_lt_byte (Nat.lt_of_le_of_lt h.demod.bitLe (by decide)))
  | msgb k =>
    cases hx
    exact h.returning (lt_bus_of_lt_byte (msgByte_lt s.msg k.toNat))

/-! ### What the invariant says of the hand-over (42_sequencer.md R192) -/

/-- The points at which a completed message is in the consumer's hands. -/
def handingOver (p : SeqPoint) : Bool :=
  match p with
  | .deliver _ _ => true
  | .handOver _ _ => true
  | .release _ => true
  | _ => false

theorem handingOver_nextDrain (left : Nat) : handingOver (nextDrain left) = false := by
  unfold nextDrain
  split <;> rfl

theorem handingOver_afterCount (c : Cfg) (n : Nat) : handingOver (afterCount c n) = false := by
  unfold afterCount
  split
  · rfl
  · exact handingOver_nextDrain n

/-- Outside the hand-over nothing is promised. -/
theorem handOverInv_of_outside {s : State}
    (h : ∀ p, s.sequencer = some p → handingOver p = false) : handOverInv s := by
  unfold handOverInv
  split
  · next hp => exact absurd (h _ hp) (by simp [handingOver])
  · next hp => exact absurd (h _ hp) (by simp [handingOver])
  · next hp => exact absurd (h _ hp) (by simp [handingOver])
  · trivial

/-- During the hand-over no command word is left. -/
theorem handOverInv.commands_eq_nil {s : State} {p : SeqPoint} (h : handOverInv s)
    (hp : s.sequencer = some p) (hover : handingOver p = true) : s.commands = [] := by
  unfold handOverInv at h
  rw [hp] at h
  cases p with
  | deliver left taken => exact h.1
  | handOver left offered => exact h.1
  | release left => exact h.1
  | count | flushBuffer | flushDemod | drain | feed | check => cases hover

/-- The promise is about the point, the words, the message and the sink's record only. -/
theorem handOverInv_congr {s t : State} (hp : t.sequencer = s.sequencer)
    (hc : t.commands = s.commands) (hd : t.demod = s.demod) (hdel : t.delivered = s.delivered)
    (h : handOverInv s) : handOverInv t := by
  obtain ⟨hbit, hmsg, -⟩ := (demod_eq_iff s t).1 hd
  unfold handOverInv
  rw [hp, hc, hbit, hmsg, hdel]
  exact h

/-- The next point keeps the promise: a complete message starts the hand-over, and each byte taken
is the message's next one. -/
theorem point_keeps_handOverInv {s u : State} {p : SeqPoint} {i : Instr} (hc : s.commands = [])
    (hp : s.sequencer = some p) (hi : seqInstr p = some i) (h : handOverInv s)
    (hx : exec i s = .next u) :
    handOverInv { u with sequencer := some (seqAfter u.cfg p u.result) } := by
  have houtside (hq : handingOver (seqAfter u.cfg p u.result) = false) :
      handOverInv { u with sequencer := some (seqAfter u.cfg p u.result) } :=
    handOverInv_of_outside fun q e => Option.some.inj e ▸ hq
  cases p with
  | count => exact houtside (handingOver_afterCount _ _)
  | flushBuffer => exact houtside rfl
  | flushDemod => exact houtside rfl
  | drain left => exact houtside rfl
  | feed left b => exact houtside rfl
  | release left => exact houtside (handingOver_nextDrain left)
  | handOver left offered => cases hi
  | check left =>
    cases hi
    cases hx
    by_cases hdone : s.bitIndex = 128
    · rw [seqAfter_check_of_complete _ left (by exact hdone)]
      exact ⟨hc, hdone, by decide, rfl⟩
    · refine houtside ?_
      rw [seqAfter_check_of_incomplete _ left (by exact hdone)]
      exact handingOver_nextDrain left
  | deliver left taken =>
    cases hi
    cases hx
    unfold handOverInv at h
    rw [hp] at h
    obtain ⟨-, hbit, hlt, htaken⟩ := h
    rw [htaken, msgBytesTo_length, State.returning_result, State.returning_cfg,
      seqAfter_deliver s.cfg left s.msg hlt]
    by_cases hmore : taken.length + 1 < 16
    · rw [afterByte_of_lt left (by simpa using hmore)]
      exact ⟨hc, hbit, by simpa [Config.msgBytes] using hmore, by simp⟩
    · have hlast : taken.length + 1 = 16 := by
        unfold Config.msgBytes at hlt
        omega
      rw [hlast, afterByte_of_full left (by simp)]
      exact ⟨hc, hbit, rfl⟩

/-! ### Every step (20_memory.md R68) -/

/-- Settles O53. -/
theorem everyStepKeepsInvariant : Obligations.EveryStepKeepsInvariant := by
  intro s t hinv hstep
  obtain ⟨-, hturn⟩ := step_next hstep
  cases hturn ▸ takeTurn_shape s with
  | idle rest h =>
    cases h
    exact BlockInv.invariant { hinv.block with } hinv.handOver
  | copy rest left offered hp h =>
    cases h
    have hand := hinv.handOver
    unfold handOverInv at hand
    rw [hp] at hand
    obtain ⟨hc, hbit, rfl⟩ := hand
    exact BlockInv.invariant { hinv.block with } ⟨hc, hbit, by simp⟩
  | tick rest ls d h =>
    obtain ⟨-, -, -, hc, hp, hdel⟩ := exec_keeps_environment h.symm
    have hd := exec_keeps_demod (by simp) (by simp) h.symm
    have hblock : BlockInv { s with turns := rest, lines := ls } := { hinv.block with }
    exact (exec_keeps_blockInv hblock h.symm).invariant
      (handOverInv_congr hp hc hd hdel hinv.handOver)
  | word rest w ws i hc h =>
    obtain ⟨-, -, -, -, hp, -⟩ := exec_keeps_environment h.symm
    have hblock : BlockInv { s with turns := rest, commands := ws } := { hinv.block with }
    refine (exec_keeps_blockInv hblock h.symm).invariant
      (handOverInv_of_outside fun p hsome => Bool.eq_false_iff.2 fun hover => ?_)
    have hnil := hinv.handOver.commands_eq_nil (hp.symm.trans hsome) hover
    rw [hc] at hnil
    cases hnil
  | reserved w ws e hc h => cases h
  | point rest p i hc hp hi h =>
    obtain ⟨u, hu, e⟩ := andThen_eq_next.1 h.symm
    cases e
    have hblock : BlockInv { s with turns := rest } := { hinv.block with }
    exact BlockInv.invariant { exec_keeps_blockInv hblock hu with }
      (point_keeps_handOverInv (s := { s with turns := rest }) hc hp hi hinv.handOver hu)

/-- Settles O55. -/
theorem noStepFaultsUnderInvariant : Obligations.NoStepFaultsUnderInvariant := by
  intro s r hinv hstep
  have hturn : takeTurn s = .fault r := (step_eq_takeTurn hinv.cfgWf).symm.trans hstep
  cases hturn ▸ takeTurn_shape s with
  | idle rest h => cases h
  | copy rest left offered hp h => cases h
  | tick rest ls d h =>
    exact exec_ne_fault (s := { s with turns := rest, lines := ls }) r hinv.headLt
      hinv.tailLt hinv.bitLe h.symm
  | word rest w ws i hc h =>
    exact exec_ne_fault (s := { s with turns := rest, commands := ws }) r hinv.headLt
      hinv.tailLt hinv.bitLe h.symm
  | reserved w ws e hc h => cases h
  | point rest p i hc hp hi h =>
    rcases andThen_eq_fault.1 h.symm with hu | ⟨u, -, hnext⟩
    · exact exec_ne_fault (s := { s with turns := rest }) r hinv.headLt hinv.tailLt hinv.bitLe hu
    · cases hnext

/-- The sequencer never issues `SB.SETSRC`. -/
theorem seqInstr_ne_setsrc {p : SeqPoint} {i : Instr} (hi : seqInstr p = some i) (id : LineId) :
    i ≠ .setsrc id := by
  rintro rfl
  cases p <;> cases hi

/-- Settles O56: the operations of the sampler and of the sequencer's points all complete. -/
theorem sequencerNeverStops : Obligations.SequencerNeverStops := by
  intro s hinv hc
  rw [step_eq_takeTurn hinv.cfgWf]
  cases takeTurn_shape s with
  | idle rest h => exact ⟨_, h, hc⟩
  | copy rest left offered hp h => exact ⟨_, h, hc⟩
  | tick rest ls d h =>
    obtain ⟨t, ht⟩ := exec_completes (i := .tick d) (s := { s with turns := rest, lines := ls })
      hinv.headLt hinv.tailLt hinv.bitLe (Or.inl nofun)
    obtain ⟨-, -, -, hkeep, -, -⟩ := exec_keeps_environment ht
    exact ⟨t, h.trans ht, hkeep.trans hc⟩
  | word rest w ws i hword h => cases hc.symm.trans hword
  | reserved w ws e hword h => cases hc.symm.trans hword
  | point rest p i hc' hp hi h =>
    obtain ⟨t, ht⟩ := exec_completes (i := i) (s := { s with turns := rest })
      hinv.headLt hinv.tailLt hinv.bitLe (Or.inl (seqInstr_ne_setsrc hi))
    obtain ⟨-, -, -, hkeep, -, -⟩ := exec_keeps_environment ht
    rw [ht, andThen_next] at h
    exact ⟨_, h, hkeep.trans hc⟩

end Sys2Proof.Machine

/-!
PROOFS. The drain sequencer, point by point (42_sequencer.md R190 to R193): the count and its
backlog test, the turn of the drain loop, `RECOVER`, the hand-over and the delivery of a message.
-/

namespace Sys2Proof.Machine

/-! ### A pass (R190) -/

theorem afterCount_of_backlog {c : Cfg} {n : Nat} (h : c.threshold < n) :
    afterCount c n = .flushBuffer := if_pos (by simpa [isBacklog] using h)

theorem afterCount_of_le {c : Cfg} {n : Nat} (h : n ≤ c.threshold) :
    afterCount c n = nextDrain n := if_neg (by simpa [isBacklog] using h)

/-- At the count, the step's one possible mark is the backlog. -/
theorem stepConditions_of_count {s : State} {rest : List Turn} (ht : s.turns = .consumer :: rest)
    (hc : s.commands = []) (hp : s.sequencer = some .count) :
    stepConditions s = if s.cfg.threshold < availableCount s then [.backlog] else [] := by
  rw [stepConditions, ht]
  dsimp only
  rw [hc, hp]
  simp [seqConditions, seqInstr, instrConditions, isBacklog]

/-- Settles O48. -/
theorem passTestsBacklogFirst : Obligations.PassTestsBacklogFirst := by
  intro s rest hw ht hc hp
  have hmark := stepConditions_of_count ht hc hp
  refine ⟨_, step_of_point hw ht hc hp rfl nofun (exec_avail _), rfl, rfl, rfl, rfl,
    fun hback => ⟨congrArg some (afterCount_of_backlog hback), hmark.trans (if_pos hback)⟩,
    fun hle => ⟨hmark.trans (if_neg (Nat.not_lt.2 hle)), fun hzero => ?_, fun hsome => ?_⟩⟩
  · exact congrArg some ((afterCount_of_le hle).trans (if_pos hzero))
  · exact congrArg some ((afterCount_of_le hle).trans (if_neg hsome))

/-- Only the schedule, the sequencer's point and the bus differ. -/
def SameBlock (s t : State) : Prop :=
  t = { s with
    turns := t.turns, sequencer := t.sequencer, result := t.result,
    resultDefined := t.resultDefined }

theorem SameBlock.keeps {s t : State} (h : SameBlock s t) :
    t.cfg = s.cfg ∧ t.head = s.head ∧ t.tail = s.tail ∧ t.mem = s.mem ∧
      t.commands = s.commands ∧ t.delivered = s.delivered ∧ t.demod = s.demod := by
  rw [h]
  exact ⟨rfl, rfl, rfl, rfl, rfl, rfl, rfl⟩

theorem SameBlock.trans {s t u : State} (h : SameBlock s t) (h' : SameBlock t u) :
    SameBlock s u := by
  unfold SameBlock at h h' ⊢
  rw [h', h]

/-- A bit read back from the bus is the bit. -/
theorem zextBit_ne_zero (b : Bit) : (zextBit b != 0) = b := by cases b <;> rfl

section
variable {s : State} {rest : List Turn} {left : Nat} (hw : s.cfg.wf = true)
  (hc : s.commands = []) (ht : s.turns = .consumer :: rest)
include hw hc ht

/-- The drain: the bit passes over the bus into the point's local. -/
theorem step_of_drain {b : Bit} (hp : s.sequencer = some (.drain (left + 1)))
    (htail : s.tail < s.cfg.capacity) (hslot : readSlot s.mem s.tail = some b) :
    ∃ t, step s = .next t ∧ t.cfg = s.cfg ∧ t.commands = [] ∧ t.turns = rest ∧
      t.sequencer = some (.feed left b) ∧ t.head = s.head ∧ t.tail = wrapSucc s.cfg s.tail ∧
      t.demod = s.demod :=
  ⟨_, step_of_point hw ht hc hp rfl nofun
    (drainReturnsStoredSample { s with turns := rest } b htail hslot), rfl, hc, rfl,
    congrArg (fun x => some (SeqPoint.feed left x)) (zextBit_ne_zero b), rfl, rfl, rfl⟩

theorem step_of_feed {b : Bit} (hp : s.sequencer = some (.feed left b)) (hb : s.bitIndex ≤ 128) :
    ∃ t, step s = .next t ∧ t.cfg = s.cfg ∧ t.commands = [] ∧ t.turns = rest ∧
      t.sequencer = some (.check left) ∧ t.head = s.head ∧ t.tail = s.tail ∧
      t.demod = demodNext s.cfg b s.demod :=
  ⟨_, step_of_point hw ht hc hp rfl nofun
    (exec_sample_eq b (s := { s with turns := rest }) hb), rfl, hc, rfl, rfl, rfl, rfl, rfl⟩

/-- The completion test reads `bit_index` and changes nothing of the block. -/
theorem step_of_check (hp : s.sequencer = some (.check left)) :
    ∃ t, step s = .next t ∧ SameBlock s t ∧ t.turns = rest ∧ t.result = s.bitIndex ∧
      t.sequencer = some (if s.bitIndex = 128 then .deliver left [] else nextDrain left) :=
  ⟨_, step_of_point hw ht hc hp rfl nofun (exec_bits _), rfl, rfl, rfl, rfl⟩

end

/-- Settles O49: drain, feed, check. -/
theorem passFeedsEachDrainedSample : Obligations.PassFeedsEachDrainedSample := by
  intro s rest left b hw ht hc hp htail hslot hbit
  obtain ⟨s₁, hstep₁, hcfg₁, hc₁, ht₁, hp₁, hhead₁, htail₁, hd₁⟩ :=
    step_of_drain hw hc ht hp htail hslot
  have hbit₁ : s₁.bitIndex = s.bitIndex := ((demod_eq_iff s s₁).1 hd₁).1
  obtain ⟨s₂, hstep₂, hcfg₂, hc₂, ht₂, hp₂, hhead₂, htail₂, hd₂⟩ :=
    step_of_feed (hcfg₁ ▸ hw) hc₁ ht₁ hp₁ (hbit₁.trans_le hbit)
  obtain ⟨u, hstep₃, hsame, hturns, hresult, hpoint⟩ :=
    step_of_check (hcfg₂.trans hcfg₁ ▸ hw) hc₂ ht₂ hp₂
  obtain ⟨-, hhead₃, htail₃, -, -, -, hd₃⟩ := hsame.keeps
  refine ⟨_, u, exec_sample_eq b hbit, ?_⟩
  generalize ht' : (s.withDemod (demodNext s.cfg b s.demod)).returningNothing = t
  have hfed : s₂.demod = t.demod := by
    rw [hd₂, hcfg₁, hd₁, ← ht']
    rfl
  obtain ⟨hb, hm, hph, hr, hl⟩ := (demod_eq_iff t u).1 (hd₃.trans hfed)
  have hb₂ : s₂.bitIndex = t.bitIndex := ((demod_eq_iff t s₂).1 hfed).1
  rw [hb₂] at hresult hpoint
  refine ⟨?_, htail₃.trans (htail₂.trans htail₁), hhead₃.trans (hhead₂.trans hhead₁), hturns, hb,
    hm, hph, hr, hl, hresult, fun hdone => ?_, fun hmore => ?_⟩
  · rw [runSteps_succ_of_next 2 hstep₁, runSteps_succ_of_next 1 hstep₂,
      runSteps_succ_of_next 0 hstep₃, runSteps_zero]
  · rw [hpoint, if_pos hdone]
  · rw [hpoint, if_neg hmore, nextDrain]

/-! ### `RECOVER` (R191) -/

/-- Both pointers at 0: nothing is pending. -/
theorem availableCount_of_pointers_zero {s : State} (hh : s.head = 0) (ht : s.tail = 0) :
    availableCount s = 0 := availableCount_eq_zero (hh.trans ht.symm)

section
variable {s : State} {rest : List Turn} (hw : s.cfg.wf = true) (hc : s.commands = [])
  (ht : s.turns = .consumer :: rest)
include hw hc ht

/-- The first point of `RECOVER`, outside a tick. -/
theorem step_of_flushBuffer (hp : s.sequencer = some .flushBuffer) (ho : s.tickOpen = false) :
    ∃ t, step s = .next t ∧ t.head = 0 ∧ t.tail = 0 ∧ t.mem = s.mem ∧ t.inputSel = s.inputSel ∧
      t.cfg = s.cfg ∧ t.tickOpen = false ∧ t.sequencer = some .flushDemod ∧ t.commands = [] ∧
      t.turns = rest ∧ t.delivered = s.delivered :=
  ⟨_, step_of_point hw ht hc hp rfl (fun _ => ho)
    (exec_sbReset_of_closed (s := { s with turns := rest }) ho), rfl, rfl, rfl, rfl, rfl, ho, rfl,
    hc, rfl, rfl⟩

/-- A point that issues `DM.RESET` leaves the buffer, the line and the sink's record alone. -/
theorem step_of_dmReset {p : SeqPoint} (hp : s.sequencer = some p)
    (hi : seqInstr p = some .dmReset) :
    ∃ t, step s = .next t ∧ DemodFresh t ∧ t.head = s.head ∧ t.tail = s.tail ∧ t.mem = s.mem ∧
      t.tickOpen = s.tickOpen ∧ t.inputSel = s.inputSel ∧ t.cfg = s.cfg ∧
      t.delivered = s.delivered ∧ t.commands = [] ∧ t.turns = rest ∧
      ∃ v, t.sequencer = some (seqAfter s.cfg p v) :=
  ⟨_, step_of_point hw ht hc hp hi nofun (exec_dmReset { s with turns := rest }),
    demodFresh_cleared { s with turns := rest }, rfl, rfl, rfl, rfl, rfl, rfl, rfl, hc, rfl, _, rfl⟩

end

/-- Settles O50. -/
theorem recoverFlushesBothUnits : Obligations.RecoverFlushesBothUnits := by
  refine ⟨fun s ho => ?_, fun s rest hw hc hp =>
      ⟨fun ho ht => ?_, fun ho ht => ?_, fun ho ht => ?_⟩,
    fun s rest hw hc hp ht => ?_⟩
  · rw [recoverOps, execAll_cons, exec_sbReset_of_closed ho, andThen_next, execAll_cons,
      exec_dmReset, andThen_next]
    exact ⟨_, rfl, rfl, rfl, availableCount_of_pointers_zero rfl rfl, demodFresh_cleared _,
      rfl, rfl, rfl, ho⟩
  · obtain ⟨t, hstep, hhead, htail, hmem, hsel, hcfg, hopen, hp', hc', ht', hdel⟩ :=
      step_of_flushBuffer hw hc ht hp ho
    obtain ⟨u, hstep', hfresh, hhead', htail', hmem', hopen', hsel', hcfg', hdel', hc'', ht'', v,
      hp''⟩ := step_of_dmReset (hcfg ▸ hw) hc' ht' hp' rfl
    refine ⟨u, ?_, hhead'.trans hhead, htail'.trans htail,
      availableCount_of_pointers_zero (hhead'.trans hhead) (htail'.trans htail), hfresh,
      hmem'.trans hmem, hsel'.trans hsel, hcfg'.trans hcfg, hopen'.trans hopen, hp'', hc'', ht'',
      hdel'.trans hdel⟩
    rw [runSteps_succ_of_next 1 hstep, runSteps_succ_of_next 0 hstep', runSteps_zero]
  · obtain ⟨t, hstep, hhead, htail, hmem, -, -, hopen, hp', hc', ht', -⟩ :=
      step_of_flushBuffer hw hc ht hp ho
    exact ⟨t, hstep, hhead, htail, hmem, hopen, hp', hc', ht'⟩
  · exact step_of_waiting_point hw ht hc hp rfl ho
  · obtain ⟨t, hstep, hfresh, hhead, htail, hmem, hopen, hsel, -, -, hc', ht', v, hp'⟩ :=
      step_of_dmReset hw hc ht hp rfl
    exact ⟨t, hstep, hfresh, hhead, htail, hmem, hopen, hsel, hp', hc', ht'⟩

/-! ### The hand-over (R192, 60_exceptions.md R213) -/

/-- Settles O51. -/
theorem handOverWaitsForSink : Obligations.HandOverWaitsForSink := by
  intro s rest left offered hw hc hp
  refine ⟨fun ht => step_of_handOver hw ht hc hp rfl, fun ht => ⟨?_, ?_⟩, fun ht => ?_⟩
  · rw [step_of_sink hw ht, sinkTurn_of_failed]
  · rw [stepConditions, ht]
    dsimp only
    rw [hp]
  · rw [step_of_sink hw ht, sinkTurn_of_copied (s := { s with turns := rest }) hp]

/-! ### The delivery of a complete message (R192, 20_memory.md R63) -/

/-- One byte: the consumer's step at a delivery takes the message's next byte. -/
theorem step_of_deliver {s : State} {rest : List Turn} {left n : Nat} (hw : s.cfg.wf = true)
    (hc : s.commands = []) (ht : s.turns = .consumer :: rest) (hn : n < 16)
    (hp : s.sequencer = some (.deliver left (msgBytesTo s.msg n))) :
    ∃ t, step s = .next t ∧ SameBlock s t ∧ t.turns = rest ∧
      t.sequencer = some (afterByte left (msgBytesTo s.msg (n + 1))) := by
  have hi : seqInstr (.deliver left (msgBytesTo s.msg n)) = some (.msgb (BitVec.ofNat 4 n)) := by
    rw [seqInstr, msgBytesTo_length]
  exact ⟨_, step_of_point hw ht hc hp hi nofun (exec_msgb _ _), rfl, rfl,
    congrArg some (seqAfter_deliver s.cfg left s.msg hn)⟩

/-- All bytes: from `n` bytes taken, the consumer's next `k` turns take the other `k` and stand at
the hand-over. -/
theorem runSteps_of_deliver {k : Nat} : ∀ {s : State} {rest : List Turn} {left n : Nat},
    s.cfg.wf = true → s.commands = [] → s.turns = List.replicate (k + 1) .consumer ++ rest →
      n + (k + 1) = 16 → s.sequencer = some (.deliver left (msgBytesTo s.msg n)) →
        ∃ t, runSteps (k + 1) s = .next t ∧ SameBlock s t ∧ t.turns = rest ∧
          t.sequencer = some (.handOver left (msgBytes s.msg)) := by
  induction k with
  | zero =>
    intro s rest left n hw hc ht hn hp
    obtain ⟨t, hstep, hsame, hturns, hpoint⟩ := step_of_deliver hw hc ht (by omega) hp
    refine ⟨t, runSteps_succ_of_next 0 hstep, hsame, hturns, ?_⟩
    rw [hpoint, hn, afterByte_of_full left (msgBytesTo_length _ _)]
    rfl
  | succ k ih =>
    intro s rest left n hw hc ht hn hp
    obtain ⟨t, hstep, hsame, hturns, hpoint⟩ := step_of_deliver hw hc ht (by omega) hp
    obtain ⟨hcfg, -, -, -, hcmd, -, hd⟩ := hsame.keeps
    obtain ⟨-, hmsg, -⟩ := (demod_eq_iff s t).1 hd
    rw [afterByte_of_lt left (by simp; omega), ← hmsg] at hpoint
    obtain ⟨u, hrun, hsame', hturns', hpoint'⟩ :=
      ih (hcfg ▸ hw) (hcmd.trans hc) hturns (by omega) hpoint
    exact ⟨u, (runSteps_succ_of_next (k + 1) hstep).trans hrun, hsame.trans hsame', hturns',
      hmsg ▸ hpoint'⟩

/-- Settles O52: the completion test, sixteen bytes, the sink's copy, and the reset. -/
theorem completeMessageIsDelivered : Obligations.CompleteMessageIsDelivered := by
  intro s rest left hw hc hp hbit ht
  obtain ⟨s₁, hstep₁, hsame₁, ht₁, -, hp₁⟩ := step_of_check hw hc ht hp
  rw [if_pos hbit] at hp₁
  obtain ⟨hcfg₁, -, -, -, hc₁, -, hd₁⟩ := hsame₁.keeps
  obtain ⟨s₂, hrun₂, hsame₂, ht₂, hp₂⟩ :=
    runSteps_of_deliver (k := 15) (n := 0) (hcfg₁ ▸ hw) (hc₁.trans hc) ht₁ rfl hp₁
  obtain ⟨hcfg, hhead, htail, hmem, hcmd, hdel, -⟩ := (hsame₁.trans hsame₂).keeps
  have hw₂ : s₂.cfg.wf = true := hcfg ▸ hw
  have hc₂ : s₂.commands = [] := hcmd.trans hc
  have hsink := (handOverWaitsForSink s₂ _ left _ hw₂ hc₂ hp₂).2.2 ht₂
  obtain ⟨t, hrelease, hfresh, hhead', htail', hmem', -, -, -, hdel', -, ht', v, hp'⟩ :=
    step_of_dmReset
      (s := { s₂ with
        turns := .consumer :: rest, delivered := s₂.delivered ++ [msgBytes s₁.msg],
        sequencer := some (.release left) })
      hw₂ hc₂ rfl rfl rfl
  have hmsg : s₁.msg = s.msg := ((demod_eq_iff s s₁).1 hd₁).2.1
  refine ⟨t, ?_, ?_, hfresh, hhead'.trans hhead, htail'.trans htail, hmem'.trans hmem, ht', hp'⟩
  · rw [runSteps_succ_of_next 18 hstep₁, show 18 = (15 + 1) + 2 from rfl, runSteps_add, hrun₂,
      andThen_next, runSteps_succ_of_next 1 hsink, runSteps_succ_of_next 0 hrelease, runSteps_zero]
  · rw [hdel', hdel, hmsg]
    rfl

end Sys2Proof.Machine

/-!
PROOFS. Single statements about `DM.SAMPLE` and `DM.MSGB` (41_demodulator.md sections 1 to 4): the
saturated counter, the appends, the marks, the bounds and the frame.
-/

namespace Sys2Proof.Machine

/-! ### The saturated counter (20_memory.md R77) -/

/-- Counting `n` samples from `v` stops at the counter's last value. -/
theorem satInc_iterate {c : Cfg} {v : Nat} (hv : v ≤ c.runMax) (n : Nat) :
    (satInc c)^[n] v = min (v + n) c.runMax := by
  induction n with
  | zero => exact (Nat.min_eq_left hv).symm
  | succ n ih =>
    rw [Function.iterate_succ_apply', ih, satInc]
    split <;> omega

/-- Settles O32: past the counter's last value every count lies beyond both windows. -/
theorem saturationIsInvisible : Obligations.SaturationIsInvisible := by
  intro c n hw
  obtain ⟨-, -, -, hcounter⟩ := (Cfg.wf_iff c).1 hw
  rw [satInc_iterate (Nat.zero_le _), Nat.zero_add]
  rcases Nat.le_total n c.runMax with hle | hge
  · rw [Nat.min_eq_left hle]
  · rw [Nat.min_eq_right hge, (classify_eq_other_iff hw c.runMax).2 (Or.inr (Or.inr hcounter)),
      (classify_eq_other_iff hw n).2 (Or.inr (Or.inr (hcounter.trans hge)))]

/-! ### The appends of a short pulse in the first half (41_demodulator.md R155, R160) -/

/-- `DM.SAMPLE` returns nothing, and leaves the registers that the sample gives. -/
theorem returnsNothing_sample (b : Bit) {s : State} (hb : s.bitIndex ≤ 128) {r : DemodRegs}
    (hr : demodNext s.cfg b s.demod = r) : ReturnsNothing (.sample b) s (s.withDemod r) :=
  returnsNothing_of_exec rfl (hr ▸ exec_sample_eq b hb)

/-- Settles O33. -/
theorem shortPulseFirstHalfAppends : Obligations.ShortPulseFirstHalfAppends := by
  intro b s hbit hb hmin hmax hp hf
  have hk := (classify_eq_short_iff s.cfg s.runLength).2 ⟨hmin, hmax⟩
  exact ⟨_, cellWritten_setMsgCell s.msg s.lastLevel hbit,
    returnsNothing_sample b hbit.le (demodNext_of_short_first (r := s.demod) hbit.ne hb hk hp hf)⟩

/-- Settles O34: the other appends raise `bit_index` by one. -/
theorem bitNineCorrectionAppendsTwice : Obligations.BitNineCorrectionAppendsTwice := by
  refine ⟨fun b s hfix h9 hl hb hmin hmax hp => ?_, fun b s t hbit hx hgrow => ?_⟩
  · have hk := (classify_eq_short_iff s.cfg s.runLength).2 ⟨hmin, hmax⟩
    have hne : s.bitIndex ≠ 128 := by omega
    exact ⟨_, _, cellWritten_setMsgCell s.msg true (by decide),
      cellWritten_setMsgCell _ true (by decide),
      returnsNothing_sample b (by omega)
        (demodNext_of_corrected (r := s.demod) hne hb hk hp ⟨hfix, h9, hl⟩)⟩
  · rw [exec_sample_eq b hbit] at hx
    cases hx
    replace hgrow : (demodNext s.cfg b s.demod).bitIndex = s.demod.bitIndex + 2 := hgrow
    rcases demodNext_bitIndex_cases s.cfg b s.demod with e | e | e | ⟨-, hb, hk, hp, hfix, h9, hl⟩
    · omega
    · omega
    · omega
    · exact ⟨hb, hfix, (classify_eq_short_iff _ _).1 hk, hp, h9, hl⟩

/-! ### Marks, bounds and frame (60_exceptions.md R211, 41_demodulator.md R161, R162, R171) -/

theorem isDesync_iff (s : State) (b : Bit) :
    isDesync s b = true ↔ s.bitIndex ≠ 128 ∧ b ≠ s.lastLevel ∧
      (classify s.cfg s.runLength = .other ∨
        s.phase = false ∧ classify s.cfg s.runLength = .long) := by
  unfold isDesync
  rw [Bool.and_eq_true, Bool.and_eq_true, Bool.not_eq_true', bne_iff_ne, and_assoc]
  refine and_congr (not_iff_not.1 ?_) (and_congr Iff.rfl ?_)
  · rw [Bool.not_eq_false, isComplete_iff, not_not]
  · cases classify s.cfg s.runLength <;> cases s.phase <;> simp

/-- Settles O39. -/
theorem desyncMarkedExactly : Obligations.DesyncMarkedExactly := by
  intro b s hw
  have hmark : instrConditions (.sample b) s = [.desync] ↔ isDesync s b = true := by
    simp [instrConditions]
  rw [hmark, isDesync_iff, classify_eq_other_iff hw, classify_eq_long_iff]

/-- Settles O40. -/
theorem sampleCompletesWithinMessage : Obligations.SampleCompletesWithinMessage := by
  intro b s hbit
  refine ⟨_, exec_sample_eq b hbit, demodNext_bitIndex_le s.cfg b (r := s.demod) hbit, ?_⟩
  rcases demodNext_bitIndex_cases s.cfg b s.demod with e | e | e | ⟨e, -⟩
  · exact Or.inl e
  · exact Or.inr (Or.inl e)
  · exact Or.inr (Or.inr (Or.inr e))
  · exact Or.inr (Or.inr (Or.inl e))

/-- Settles O41. -/
theorem sampleFrame : Obligations.SampleFrame := by
  intro b s t hx
  obtain ⟨r, rfl, hcells, hlevel⟩ := exec_sample_next hx
  exact ⟨rfl, hcells, hlevel⟩

/-! ### The message byte (20_memory.md R62, 41_demodulator.md R166) -/

/-- Bit `7 - i` of byte `k` is cell `8k + i`. -/
theorem msgByte_testBit (m : BitVec 128) (k : Nat) {i : Nat} (hi : i < 8) :
    (msgByte m k).toNat.testBit (7 - i) = msgCell m (8 * k + i) := by
  rw [BitVec.testBit_toNat, msgByte]
  obtain ⟨h7, h6, h5, h4, h3, h2, h1, h0⟩ := byteOfBits_getLsbD (msgCell m (8 * k))
    (msgCell m (8 * k + 1)) (msgCell m (8 * k + 2)) (msgCell m (8 * k + 3))
    (msgCell m (8 * k + 4)) (msgCell m (8 * k + 5)) (msgCell m (8 * k + 6))
    (msgCell m (8 * k + 7))
  interval_cases i <;> assumption

/-- Settles O44. -/
theorem messageByteIsMostSignificantFirst : Obligations.MessageByteIsMostSignificantFirst :=
  fun k s => ⟨_, msgByte_lt s.msg k.toNat, exec_msgb k s, fun _ hi _ => msgByte_testBit s.msg _ hi⟩

end Sys2Proof.Machine

/-!
PROOFS. The round trip of 41_demodulator.md section 5 (R169, R170), with the correction and without
it. The stream of a message is cut where a bit is about to be appended: before the first sample of
the second half of each symbol. Between two such cuts lie one append and the change to the next
bit, whose length, one half-symbol or two, tells whether the bits differ.
-/

namespace Sys2Proof.Machine

/-! ### Samples in a row, on the registers -/

/-- The registers after a list of samples. -/
def feed (c : Cfg) (bs : List Bit) (r : DemodRegs) : DemodRegs :=
  bs.foldl (fun r b => demodNext c b r) r

theorem feed_cons (c : Cfg) (b : Bit) (bs : List Bit) (r : DemodRegs) :
    feed c (b :: bs) r = feed c bs (demodNext c b r) := rfl

theorem feed_append (c : Cfg) (bs bs' : List Bit) (r : DemodRegs) :
    feed c (bs ++ bs') r = feed c bs' (feed c bs r) := List.foldl_append

/-- A run of `DM.SAMPLE` completes, with those registers. -/
theorem execAll_samples (bs : List Bit) {s : State} (hb : s.bitIndex ≤ 128) :
    ∃ t, execAll (bs.map .sample) s = .next t ∧ t.demod = feed s.cfg bs s.demod := by
  induction bs generalizing s with
  | nil => exact ⟨s, rfl, rfl⟩
  | cons b bs ih =>
    obtain ⟨t, ht, hd⟩ := ih (s := (s.withDemod (demodNext s.cfg b s.demod)).returningNothing)
      (demodNext_bitIndex_le s.cfg b (r := s.demod) hb)
    exact ⟨t, by rw [List.map_cons, execAll_cons, exec_sample_eq b hb, andThen_next, ht], hd⟩

/-- A complete message is frozen (R151). -/
theorem feed_of_complete (c : Cfg) (bs : List Bit) {r : DemodRegs} (hc : r.bitIndex = 128) :
    feed c bs r = r := by
  induction bs with
  | nil => rfl
  | cons b bs ih => rw [feed_cons, demodNext_of_complete c b hc, ih]

/-- A level that holds for `n` samples adds `n` to the run, up to the counter's last value. -/
theorem feed_replicate_of_same {c : Cfg} (n : Nat) {b : Bit} {r : DemodRegs}
    (hc : r.bitIndex ≠ 128) (hb : b = r.lastLevel) (hrun : r.runLength ≤ c.runMax) :
    feed c (List.replicate n b) r = { r with runLength := min (r.runLength + n) c.runMax } := by
  rw [← satInc_iterate hrun]
  induction n generalizing r with
  | zero => rfl
  | succ n ih =>
    rw [List.replicate_succ, feed_cons, demodNext_of_same c hc hb,
      ih (r := { r with runLength := satInc c r.runLength }) hc hb (satInc_le hrun).2.1]
    rfl

/-- A transition that leaves the run at 0, and the rest of its half-symbol. -/
theorem feed_half_of_transition {c : Cfg} {h k : Nat} {b p : Bit} {m : BitVec 128} {r : DemodRegs}
    (hh : 1 ≤ h) (hfit : h - 1 ≤ c.runMax) (hk : k ≠ 128)
    (hfirst : demodNext c b r = ⟨k, m, p, 0, b⟩) :
    feed c (List.replicate h b) r = ⟨k, m, p, h - 1, b⟩ := by
  obtain ⟨n, rfl⟩ : ∃ n, h = n + 1 := ⟨h - 1, by omega⟩
  rw [List.replicate_succ, feed_cons, hfirst,
    feed_replicate_of_same n (r := ⟨k, m, p, 0, b⟩) hk rfl (Nat.zero_le _), Nat.zero_add,
    Nat.min_eq_left (by omega)]
  rfl

/-! ### Half-symbols that fit the run parameters (70_reset_and_hazards.md R256) -/

section
variable {c : Cfg} {h : Nat} (hw : c.wf = true) (hfit : HalfSymbolFits c h)
include hfit

theorem two_le_of_fits : 2 ≤ h := by
  obtain ⟨⟨hmin, -⟩, -, -⟩ := hfit
  omega

theorem classify_half_of_fits : classify c (h - 1) = .short :=
  (classify_eq_short_iff c (h - 1)).2 hfit.1

theorem classify_whole_of_fits : classify c (2 * h - 1) = .long :=
  (classify_eq_long_iff c (2 * h - 1)).2 hfit.2

include hw

theorem whole_le_runMax_of_fits : 2 * h - 1 ≤ c.runMax := by
  obtain ⟨-, -, -, hcounter⟩ := (Cfg.wf_iff c).1 hw
  obtain ⟨-, -, hmax⟩ := hfit
  omega

end

/-! ### The two cuts of a symbol -/

/-- Bit `b` is about to be appended at place `k`, after the bit `prev`: the run of its level is one
half-symbol long in the first half of the bit period if the bits are equal, and two in the second
half if they differ; the cells below `k` are as in `cell`. -/
structure BeforeAppend (h : Nat) (cell : Nat → Bit) (k : Nat) (prev b : Bit) (r : DemodRegs) :
    Prop where
  bitIndex : r.bitIndex = k
  cells : ∀ j, j < k → msgCell r.msg j = cell j
  level : r.lastLevel = b
  phase : r.phase = (b != prev)
  run : r.runLength = if b = prev then h - 1 else 2 * h - 1

/-- The sample that ends the first half of bit `b` has just appended it. -/
structure AfterAppend (cell : Nat → Bit) (k : Nat) (b : Bit) (r : DemodRegs) : Prop where
  bitIndex : r.bitIndex = k
  cells : ∀ j, j < k → msgCell r.msg j = cell j
  level : r.lastLevel = !b
  phase : r.phase = true
  run : r.runLength = 0

/-- Writing a cell with its own value extends the agreement by one. -/
theorem cells_append {cell : Nat → Bit} {m : BitVec 128} {k : Nat}
    (hcells : ∀ j, j < k → msgCell m j = cell j) (hk : k < 128) :
    ∀ j, j < k + 1 → msgCell (setMsgCell m k (cell k)) j = cell j := by
  intro j hj
  rw [msgCell_setMsgCell m j _ hk]
  split
  · next e => rw [e]
  · exact hcells j (by omega)

section
variable {c : Cfg} {h : Nat} (hw : c.wf = true) (hfit : HalfSymbolFits c h)
include hfit

/-- Where the correction does not fire, the first sample of the second half appends the bit. -/
theorem BeforeAppend.append {cell : Nat → Bit} {k : Nat} {prev b : Bit} {r : DemodRegs}
    (hr : BeforeAppend h cell k prev b r) (hk : k < 128) (hcell : cell k = b)
    (hno : ¬(c.fixEn = true ∧ k = 9 ∧ b = true ∧ b = prev)) :
    AfterAppend cell (k + 1) b (demodNext c (!b) r) := by
  obtain ⟨rfl, hcells, rfl, hphase, hrun⟩ := hr
  have happend : demodNext c (!r.lastLevel) r =
      ⟨r.bitIndex + 1, setMsgCell r.msg r.bitIndex r.lastLevel, true, 0, !r.lastLevel⟩ := by
    by_cases hprev : r.lastLevel = prev
    · rw [if_pos hprev] at hrun
      exact demodNext_of_short_first hk.ne (Bool.not_ne_self _)
        (hrun ▸ classify_half_of_fits hfit) (by rw [hphase, hprev, bne_self_eq_false])
        fun ⟨hfix, h9, hl⟩ => hno ⟨hfix, h9, hl, hprev⟩
    · rw [if_neg hprev] at hrun
      exact demodNext_of_long_second hk.ne (Bool.not_ne_self _)
        (hrun ▸ classify_whole_of_fits hfit) (hphase.trans (bne_iff_ne.2 hprev))
  rw [happend]
  exact ⟨rfl, hcell ▸ cells_append hcells hk, rfl, rfl, rfl⟩

/-- Where it fires, the same sample appends two ones (R160). -/
theorem BeforeAppend.append_corrected {cell : Nat → Bit} {r : DemodRegs}
    (hr : BeforeAppend h cell 9 true true r) (hfix : c.fixEn = true) (h9 : cell 9 = true)
    (h10 : cell 10 = true) : AfterAppend cell 11 true (demodNext c (!true) r) := by
  obtain ⟨hk, hcells, hlevel, hphase, hrun⟩ := hr
  rw [if_pos rfl] at hrun
  rw [demodNext_of_corrected (by omega) (by simp [hlevel]) (hrun ▸ classify_half_of_fits hfit)
    hphase ⟨hfix, hk, hlevel⟩]
  have hcells₉ := cells_append hcells (by decide)
  have hcells₁₀ := cells_append hcells₉ (by decide)
  rw [h9, h10] at hcells₁₀
  exact ⟨rfl, hcells₁₀, rfl, rfl, rfl⟩

include hw

/-- From the append of `b` the second half of `b` and the first half of `b'` lead to the next cut.
-/
theorem AfterAppend.next_bit {cell : Nat → Bit} {k : Nat} {b : Bit} (b' : Bit) {r : DemodRegs}
    (hr : AfterAppend cell k b r) (hk : k < 128) :
    BeforeAppend h cell k b b'
      (feed c (List.replicate (h - 1) (!b) ++ List.replicate h b') r) := by
  obtain ⟨rfl, hcells, hlevel, hphase, hrun⟩ := hr
  have hh := two_le_of_fits hfit
  have hmax := whole_le_runMax_of_fits hw hfit
  have hhalf : feed c (List.replicate (h - 1) (!b)) r =
      ⟨r.bitIndex, r.msg, true, h - 1, !b⟩ := by
    rw [feed_replicate_of_same _ hk.ne hlevel.symm (by omega), hrun, hphase, hlevel, Nat.zero_add,
      Nat.min_eq_left (by omega)]
  rw [feed_append, hhalf]
  by_cases hsame : b' = b
  · subst hsame
    rw [feed_half_of_transition (by omega) (by omega) hk.ne
      (demodNext_of_short_second (r := ⟨r.bitIndex, r.msg, true, h - 1, !b'⟩) hk.ne (by simp)
        (classify_half_of_fits hfit) rfl)]
    exact ⟨rfl, hcells, rfl, by simp, by simp⟩
  · obtain rfl : b' = !b := Bool.eq_not.2 hsame
    rw [feed_replicate_of_same _ (r := ⟨r.bitIndex, r.msg, true, h - 1, !b⟩) hk.ne rfl
      (by dsimp only; omega)]
    refine ⟨rfl, hcells, rfl, by simp, ?_⟩
    rw [if_neg hsame]
    dsimp only
    omega

/-- The lead-in ends in a run beyond both windows, so the first bit's first sample clears, and the
first cut is that of a bit after an equal one. -/
theorem beforeAppend_of_leadIn {g : Nat} (hg : 2 * c.maxRun + 1 ≤ g) (cell : Nat → Bit) (b : Bit) :
    BeforeAppend h cell 0 b b
      (feed c (List.replicate g (!b) ++ List.replicate h b) ⟨0, 0#128, false, 0, false⟩) := by
  obtain ⟨-, -, hwindow, hcounter⟩ := (Cfg.wf_iff c).1 hw
  have hh := two_le_of_fits hfit
  have hmax := whole_le_runMax_of_fits hw hfit
  have hlead : ∃ n, 2 * c.maxRun ≤ n ∧
      feed c (List.replicate g (!b)) ⟨0, 0#128, false, 0, false⟩ = ⟨0, 0#128, false, n, !b⟩ := by
    cases b with
    | true =>
      refine ⟨min (0 + g) c.runMax, by omega, ?_⟩
      exact feed_replicate_of_same g (r := ⟨0, 0#128, false, 0, false⟩) (by decide) rfl
        (Nat.zero_le _)
    | false =>
      obtain ⟨n, rfl⟩ : ∃ n, g = n + 1 := ⟨g - 1, by omega⟩
      have hclass : classify c 0 = .other :=
        (classify_eq_other_iff hw 0).2 (Or.inl (Nat.zero_le _))
      refine ⟨min (0 + n) c.runMax, by omega, ?_⟩
      rw [List.replicate_succ, feed_cons,
        demodNext_of_clears (r := ⟨0, 0#128, false, 0, false⟩) (by decide) (by decide)
          (Or.inl hclass)]
      exact feed_replicate_of_same n (r := ⟨0, 0#128, false, 0, true⟩) (by decide) rfl
        (Nat.zero_le _)
  obtain ⟨n, hn, hfeed⟩ := hlead
  have hclass : classify c n = .other := (classify_eq_other_iff hw n).2 (Or.inr (Or.inr hn))
  rw [feed_append, hfeed, feed_half_of_transition (by omega) (by omega) (by decide)
    (demodNext_of_clears (r := ⟨0, 0#128, false, n, !b⟩) (by simp) (by simp) (Or.inl hclass))]
  exact ⟨rfl, nofun, rfl, by simp, by simp⟩

end

/-! ### The stream of a message, up to its cuts (41_demodulator.md R169) -/

/-- The samples of the bits `bits 0`, `bits 1`, and so on, after a lead-in of `g`, up to the end of
the first half of bit `n`. -/
def sentTo (h g : Nat) (bits : Nat → Bit) (n : Nat) : List Bit :=
  match n with
  | 0 => List.replicate g (!bits 0) ++ List.replicate h (bits 0)
  | n + 1 =>
    sentTo h g bits n ++
      (!bits n) :: (List.replicate (h - 1) (!bits n) ++ List.replicate h (bits (n + 1)))

theorem cons_replicate_pred {h : Nat} (hh : 1 ≤ h) (b : Bit) :
    b :: List.replicate (h - 1) b = List.replicate h b := by
  rw [← List.replicate_succ, Nat.sub_add_cancel hh]

theorem sentTo_length {h : Nat} (hh : 1 ≤ h) (g : Nat) (bits : Nat → Bit) (n : Nat) :
    (sentTo h g bits n).length = g + (2 * n + 1) * h := by
  induction n with
  | zero => simp [sentTo]
  | succ n ih =>
    simp only [sentTo, List.length_append, List.length_cons, List.length_replicate, ih]
    ring_nf
    omega

/-- With the second half of bit `n` the stream has whole symbols. -/
theorem sentTo_append_half {h : Nat} (hh : 1 ≤ h) (g : Nat) (bits : Nat → Bit) (n : Nat) :
    sentTo h g bits n ++ List.replicate h (!bits n) =
      List.replicate g (!bits 0) ++
        (List.range (n + 1)).flatMap fun i => encodeSymbol h (bits i) := by
  induction n with
  | zero => simp [sentTo, encodeSymbol]
  | succ n ih =>
    rw [List.range_succ, List.flatMap_append, ← List.append_assoc, ← ih, sentTo,
      ← List.cons_append, cons_replicate_pred hh]
    simp [encodeSymbol]

/-- The stream of a message at the cut of bit `n`: the next sample is the first of its second half.
-/
theorem encodeBits_at_cut {h : Nat} (hh : 1 ≤ h) (g : Nat) (m : BitVec 128) {n : Nat}
    (hn : n < 128) :
    ∃ rest, encodeBits h g (messageBits m) =
      sentTo h g (msgCell m) n ++ (!msgCell m n) :: rest := by
  have hbits : encodeBits h g (messageBits m) =
      List.replicate g (!msgCell m 0) ++
        (List.range 128).flatMap fun i => encodeSymbol h (msgCell m i) := by
    simp [encodeBits, messageBits, Config.msgBits, List.flatMap_map, List.head?_range]
  have hrange : List.range 128 =
      List.range (n + 1) ++ (List.range (127 - n)).map (n + 1 + ·) := by
    rw [← List.range_add, show n + 1 + (127 - n) = 128 by omega]
  rw [hbits, hrange, List.flatMap_append, ← List.append_assoc, ← sentTo_append_half hh,
    ← cons_replicate_pred hh (!msgCell m n), List.append_assoc, List.cons_append]
  exact ⟨_, rfl⟩

/-! ### The decoded message, with and without the correction (R160, R170) -/

/-- How many cells are decoded before bit `n`: one more than `n` once the correction has fired. -/
def cellsBefore (corrected : Bool) (n : Nat) : Nat := if corrected = true ∧ 10 ≤ n then n + 1 else n

/-- The cells that the bits `bits 0`, `bits 1`, and so on are decoded to. -/
def decodedCell (corrected : Bool) (bits : Nat → Bit) (j : Nat) : Bit :=
  if corrected = true ∧ 9 ≤ j then (if j = 9 then true else bits (j - 1)) else bits j

theorem decodedCell_cellsBefore {corrected : Bool} {bits : Nat → Bit} {n : Nat}
    (h9 : ¬(corrected = true ∧ n = 9)) :
    decodedCell corrected bits (cellsBefore corrected n) = bits n := by
  unfold decodedCell cellsBefore
  cases corrected with
  | false => simp
  | true =>
    by_cases hn : 10 ≤ n
    · simp [hn, show 9 ≤ n + 1 by omega, show n ≠ 8 by omega]
    · have hlt : ¬9 ≤ n := by
        simp only [true_and] at h9
        omega
      simp [hn, hlt]

section
variable {c : Cfg} {h : Nat} (hw : c.wf = true) (hfit : HalfSymbolFits c h) {bits : Nat → Bit}
  {corrected : Bool}
  (hcorr : corrected = true ↔ c.fixEn = true ∧ bits 8 = true ∧ bits 9 = true)
include hfit hcorr

/-- The first sample of the second half of bit `n` appends what the bit is decoded to. -/
theorem append_bit {n : Nat} {r : DemodRegs} (hn : cellsBefore corrected n < 128)
    (hr : BeforeAppend h (decodedCell corrected bits) (cellsBefore corrected n) (bits (n - 1))
      (bits n) r) :
    AfterAppend (decodedCell corrected bits) (cellsBefore corrected (n + 1)) (bits n)
      (demodNext c (!bits n) r) := by
  by_cases h9 : corrected = true ∧ n = 9
  · obtain ⟨rfl, rfl⟩ := h9
    obtain ⟨hfix, hbit₈, hbit₉⟩ := hcorr.1 rfl
    rw [show bits (9 - 1) = true from hbit₈, hbit₉] at hr
    rw [hbit₉]
    exact hr.append_corrected hfit hfix rfl hbit₉
  · have hnext : cellsBefore corrected (n + 1) = cellsBefore corrected n + 1 := by
      unfold cellsBefore
      cases corrected with
      | false => simp
      | true =>
        simp only [true_and] at h9 ⊢
        split_ifs <;> omega
    rw [hnext]
    refine hr.append hfit hn (decodedCell_cellsBefore h9) fun ⟨hfix, hk, hbit, hprev⟩ => h9 ?_
    obtain rfl : n = 9 := by
      unfold cellsBefore at hk
      split_ifs at hk <;> omega
    exact ⟨hcorr.2 ⟨hfix, hprev.symm.trans hbit, hbit⟩, rfl⟩

include hw

/-- At every cut the Demodulator is about to append the bit, with the cells before it decoded. -/
theorem beforeAppend_sentTo {g : Nat} (hg : 2 * c.maxRun + 1 ≤ g) {n : Nat}
    (hn : cellsBefore corrected n < 128) :
    BeforeAppend h (decodedCell corrected bits) (cellsBefore corrected n) (bits (n - 1)) (bits n)
      (feed c (sentTo h g bits n) ⟨0, 0#128, false, 0, false⟩) := by
  induction n with
  | zero =>
    have hzero : cellsBefore corrected 0 = 0 := by simp [cellsBefore]
    rw [hzero]
    exact beforeAppend_of_leadIn hw hfit hg _ (bits 0)
  | succ n ih =>
    have hmono : cellsBefore corrected n < 128 := by
      unfold cellsBefore at hn ⊢
      split_ifs at hn ⊢ <;> omega
    rw [sentTo, feed_append, feed_cons]
    exact (append_bit hfit hcorr hmono (ih hmono)).next_bit hw hfit (bits (n + 1)) hn

end

/-- The whole round trip: at the cut of the bit before which 127 cells are decoded `bit_index` is
127, one sample later it is 128 with every cell decoded, and so it stays to the end. -/
theorem execAll_encodeBits {s : State} {m : BitVec 128} {h g n : Nat} {corrected : Bool}
    (hw : s.cfg.wf = true) (hfresh : DemodFresh s) (hfit : HalfSymbolFits s.cfg h)
    (hg : 2 * s.cfg.maxRun + 1 ≤ g)
    (hcorr : corrected = true ↔
      s.cfg.fixEn = true ∧ msgCell m 8 = true ∧ msgCell m 9 = true)
    (hlast : cellsBefore corrected n = 127) (hdone : cellsBefore corrected (n + 1) = 128)
    (hn : n < 128) :
    ∃ t u v,
      execAll (((encodeBits h g (messageBits m)).take (g + (2 * n + 1) * h)).map .sample) s
          = .next t ∧ t.bitIndex = 127 ∧
        execAll (((encodeBits h g (messageBits m)).take (g + (2 * n + 1) * h + 1)).map .sample) s
          = .next u ∧ u.bitIndex = 128 ∧
        (∀ j, j < 128 → msgCell u.msg j = decodedCell corrected (msgCell m) j) ∧
        execAll ((encodeBits h g (messageBits m)).map .sample) s = .next v ∧
        v.bitIndex = 128 ∧ v.msg = u.msg := by
  have hh : 1 ≤ h := Nat.le_of_succ_le (two_le_of_fits hfit)
  have hlen := sentTo_length hh g (msgCell m) n
  obtain ⟨rest, hstream⟩ := encodeBits_at_cut hh g m hn
  obtain ⟨hbit, hphase, hrun, hlevel, hmsg⟩ := hfresh
  have hregs : s.demod = ⟨0, 0#128, false, 0, false⟩ := by
    rw [State.demod, hbit, hphase, hrun, hlevel, hmsg]
  have hbefore := beforeAppend_sentTo hw hfit hcorr hg (n := n) (by omega)
  have hafter := append_bit hfit hcorr (by omega) hbefore
  rw [hdone, ← hregs] at hafter
  rw [hlast, ← hregs] at hbefore
  have hle : s.bitIndex ≤ 128 := by omega
  obtain ⟨t, ht, hdt⟩ := execAll_samples (sentTo h g (msgCell m) n) hle
  obtain ⟨u, hu, hdu⟩ := execAll_samples (sentTo h g (msgCell m) n ++ [!msgCell m n]) hle
  obtain ⟨v, hv, hdv⟩ := execAll_samples
    ((sentTo h g (msgCell m) n ++ [!msgCell m n]) ++ rest) hle
  have hone : feed s.cfg (sentTo h g (msgCell m) n ++ [!msgCell m n]) s.demod =
      demodNext s.cfg (!msgCell m n) (feed s.cfg (sentTo h g (msgCell m) n) s.demod) :=
    feed_append _ _ _ _
  rw [← hone, ← hdu] at hafter
  rw [← hdt] at hbefore
  rw [feed_append, ← hdu, feed_of_complete _ _ hafter.bitIndex] at hdv
  obtain ⟨hvbit, hvmsg, -⟩ := (demod_eq_iff u v).1 hdv
  refine ⟨t, u, v, ?_, hbefore.bitIndex, ?_, hafter.bitIndex, hafter.cells, ?_,
    hvbit.trans hafter.bitIndex, hvmsg⟩
  · rw [hstream, List.take_left' hlen, ht]
  · rw [hstream, ← List.singleton_append, ← List.append_assoc,
      List.take_left' (by rw [List.length_append, hlen, List.length_singleton]), hu]
  · rw [hstream, ← hv, List.append_assoc, List.singleton_append]

/-- Messages with the same cells are equal. -/
theorem eq_of_msgCell_eq {m m' : BitVec 128} (h : ∀ j, j < 128 → msgCell m j = msgCell m' j) :
    m = m' := BitVec.eq_of_getMsbD_eq h

/-- Settles O46: where the correction does not fire, bit 127 completes the message. -/
theorem encodedMessageIsDecoded : Obligations.EncodedMessageIsDecoded := by
  intro s m h g hw hfresh hfit hg hno
  have hcorr : false = true ↔ s.cfg.fixEn = true ∧ msgCell m 8 = true ∧ msgCell m 9 = true :=
    iff_of_false Bool.false_ne_true fun ⟨hfix, hbits⟩ =>
      hno.elim (fun hoff => Bool.false_ne_true (hoff.symm.trans hfix)) fun hnot => hnot hbits
  obtain ⟨t, u, v, ht, htbit, hu, hubit, hcells, hv, hvbit, hvmsg⟩ :=
    execAll_encodeBits (n := 127) hw hfresh hfit hg hcorr rfl rfl (by decide)
  have hmsg : u.msg = m := eq_of_msgCell_eq hcells
  exact ⟨t, u, v, ht, htbit, hu, hubit, hmsg, hv, hvbit, hvmsg.trans hmsg⟩

/-- Settles O47: where it fires, bit 126 does. -/
theorem correctionShiftsEncodedMessage : Obligations.CorrectionShiftsEncodedMessage := by
  intro s m h g hw hfresh hfit hg hfix hbit₈ hbit₉
  obtain ⟨t, u, v, ht, htbit, hu, hubit, hcells, hv, hvbit, hvmsg⟩ :=
    execAll_encodeBits (n := 126) (corrected := true) hw hfresh hfit hg
      (iff_of_true rfl ⟨hfix, hbit₈, hbit₉⟩) rfl rfl (by decide)
  refine ⟨t, u, v, ht, htbit, hu, hubit, hv, hvbit, hvmsg, fun i hi => ?_⟩
  rw [hcells i hi, decodedCell]
  by_cases hle : i ≤ 8
  · rw [if_neg (by omega), if_pos hle]
  · rw [if_pos ⟨rfl, by omega⟩, if_neg hle]

end Sys2Proof.Machine

/-!
PROOFS. The sample buffer as a queue (40_sample_buffer.md section 3, 20_memory.md section 4,
70_reset_and_hazards.md section 3): ticks alone and drains alone, a drain moved across a tick, and
any interleaving. For the last the buffer is read as the list of what its next drains will return.
-/

namespace Sys2Proof.Machine

/-! ### Slots in ring order -/

theorem nextPointer_add_mod (c : Cfg) (p j : Nat) :
    (nextPointer c p + j) % c.capacity = (p + (j + 1)) % c.capacity := by
  rw [nextPointer, Nat.mod_add_mod, Nat.add_assoc, Nat.add_comm 1 j]

/-- `MemRead` depends on the slot and on the draw count only. -/
theorem memRead_congr {s t : State} {i : Nat} (hslot : readSlot t.mem i = readSlot s.mem i)
    (hdraws : t.draws = s.draws) : memRead t i = memRead s i := by
  rw [memRead, memRead, hslot, hdraws]

theorem memRead_of_some {s : State} {i : Nat} {b : Bit} (h : readSlot s.mem i = some b) :
    memRead s i = (b, s.draws) := by
  rw [memRead, h]

/-! ### Drains alone (40_sample_buffer.md R123) -/

/-- Any number of drains completes; they return the slots from `tail` on, where a tick has written
them. -/
theorem execResults_drains (n : Nat) {s : State} (ht : s.tail < s.cfg.capacity) :
    ∃ t vs, execResults (List.replicate n .drain) s = some (t, vs) ∧ vs.length = n ∧
      t.cfg = s.cfg ∧ t.head = s.head ∧ t.mem = s.mem ∧
      t.tail = (s.tail + n) % s.cfg.capacity ∧
      ∀ j b, j < n → readSlot s.mem ((s.tail + j) % s.cfg.capacity) = some b →
        vs[j]? = some b.toNat := by
  induction n generalizing s with
  | zero => exact ⟨s, [], rfl, rfl, rfl, rfl, rfl, (Nat.mod_eq_of_lt ht).symm, nofun⟩
  | succ n ih =>
    obtain ⟨t, vs, hrun, hlen, hcfg, hhead, hmem, htail, hslots⟩ := ih
      (s := ({ s with tail := nextPointer s.cfg s.tail, draws := (memRead s s.tail).2 }).returning
        (zextBit (memRead s s.tail).1)) (nextPointer_lt s.cfg s.tail)
    refine ⟨t, zextBit (memRead s s.tail).1 :: vs, ?_, by rw [List.length_cons, hlen], hcfg, hhead,
      hmem, htail.trans (nextPointer_add_mod s.cfg s.tail n), fun j b hj hslot => ?_⟩
    · rw [List.replicate_succ, execResults_cons_of_next _ (exec_drain ht), hrun]
      rfl
    · cases j with
      | zero =>
        rw [Nat.add_zero, Nat.mod_eq_of_lt ht] at hslot
        rw [memRead_of_some hslot]
        rfl
      | succ j =>
        rw [← nextPointer_add_mod] at hslot
        exact hslots j b (Nat.lt_of_succ_lt_succ hj) hslot

/-! ### Ticks alone (40_sample_buffer.md R120, R126) -/

/-- Which of `n` ticks wrote the slot `j` places on last. -/
def newestTick (c : Cfg) (n j : Nat) : Nat := j + c.capacity * ((n - 1 - j) / c.capacity)

theorem newestTick_lt {c : Cfg} {n j : Nat} (hj : j < n) : newestTick c n j < n := by
  have hle := Nat.mul_div_le (n - 1 - j) c.capacity
  unfold newestTick
  omega

/-- One tick more is the newest in the slot it writes. -/
theorem newestTick_succ_of_written {c : Cfg} {n j : Nat} (hj : j < n + 1)
    (hw : c.capacity ∣ n - j) : newestTick c (n + 1) j = n := by
  unfold newestTick
  rw [Nat.add_sub_cancel, Nat.mul_div_cancel' hw]
  omega

/-- It changes nothing in the other slots. -/
theorem newestTick_succ_of_kept {c : Cfg} {n j : Nat} (hj : j < n) (hw : ¬c.capacity ∣ n - j) :
    newestTick c (n + 1) j = newestTick c n j := by
  have hpred : n + 1 - 1 - j = (n - 1 - j) + 1 := by omega
  unfold newestTick
  rw [hpred, Nat.succ_div_of_not_dvd (by rwa [show n - 1 - j + 1 = n - j by omega])]

/-- Two offsets name one slot when their distance is a whole number of rounds. -/
theorem slot_eq_iff_dvd {c : Cfg} (p : Nat) {j n : Nat} (hj : j ≤ n) :
    (p + n) % c.capacity = (p + j) % c.capacity ↔ c.capacity ∣ n - j := by
  rw [← Nat.modEq_iff_dvd' hj]
  exact ⟨fun h => (Nat.ModEq.add_left_cancel' p h).symm, fun h => (Nat.ModEq.add_left p h).symm⟩

/-- Any number of ticks completes; each slot reached holds the level of its newest tick. -/
theorem execAll_fullTicks (ds : List Bit) {s : State} (ho : s.tickOpen = false)
    (hh : s.head < s.cfg.capacity) :
    ∃ t, execAll (fullTicks ds) s = .next t ∧ t.cfg = s.cfg ∧ t.tickOpen = false ∧
      t.tail = s.tail ∧ t.head = (s.head + ds.length) % s.cfg.capacity ∧
      ∀ j, j < s.cfg.capacity → j < ds.length →
        readSlot t.mem ((s.head + j) % s.cfg.capacity) = ds[newestTick s.cfg ds.length j]? := by
  induction ds using List.reverseRecOn with
  | nil => exact ⟨s, rfl, rfl, ho, rfl, (Nat.mod_eq_of_lt hh).symm, fun _ _ => nofun⟩
  | append_singleton ds d ih =>
    obtain ⟨t, hrun, hcfg, hopen, htail, hhead, hslots⟩ := ih
    have hlt : t.head < t.cfg.capacity := by
      rw [hhead, hcfg]
      exact Nat.mod_lt _ s.cfg.capacity_pos
    have hlast : execAll (fullTicks [d]) t = .next { t with
        mem := writeSlot t.mem t.head d, ticked := true, head := nextPointer t.cfg t.head,
        tickOpen := false } := by
      show execAll [.tick d, .tick d] t = _
      rw [execAll_cons, exec_tick_of_closed d hopen hlt, andThen_next, execAll_cons,
        exec_tick_of_open d rfl, andThen_next, execAll_nil]
    have hsplit : fullTicks (ds ++ [d]) = fullTicks ds ++ fullTicks [d] := List.flatMap_append
    have hall : execAll (fullTicks (ds ++ [d])) s = execAll (fullTicks [d]) t := by
      rw [hsplit, execAll_append, hrun, andThen_next]
    refine ⟨_, hall.trans hlast, hcfg, rfl, htail, ?_, fun j hj hjn => ?_⟩
    · show nextPointer t.cfg t.head = _
      rw [hcfg, hhead, nextPointer, Nat.mod_add_mod, List.length_append, List.length_singleton,
        Nat.add_assoc]
    · rw [List.length_append, List.length_singleton] at hjn ⊢
      show readSlot (writeSlot t.mem t.head d) _ = _
      rw [readSlot_writeSlot, hhead]
      have hslot := slot_eq_iff_dvd (c := s.cfg) s.head (Nat.le_of_lt_succ hjn)
      by_cases hwritten : s.cfg.capacity ∣ ds.length - j
      · rw [if_pos (hslot.2 hwritten), newestTick_succ_of_written hjn hwritten]
        simp
      · have hne : j ≠ ds.length := by
          rintro rfl
          exact hwritten (by simp)
        have hjlt : j < ds.length := by omega
        rw [if_neg (mt hslot.1 hwritten), newestTick_succ_of_kept hjlt hwritten, hslots j hj hjlt,
          List.getElem?_append_left (newestTick_lt hjlt)]

/-- Settles O23. -/
theorem overrunWrapsSilently : Obligations.OverrunWrapsSilently := by
  intro s ds ho hh he
  obtain ⟨t, hrun, hcfg, -, htail, hhead, hslots⟩ := execAll_fullTicks ds ho hh
  refine ⟨t, hrun, htail, ?_, he ▸ hslots⟩
  have hpos := s.cfg.capacity_pos
  have hcount := availableCount_eq_iff (s := t) (n := ds.length % s.cfg.capacity)
    (by rw [hhead, hcfg]; exact Nat.mod_lt _ hpos) (by rw [htail, hcfg, he]; exact hh)
    (by rw [hcfg]; exact Nat.mod_lt _ hpos)
  rw [hcount, hcfg, htail, hhead, he, Nat.add_mod_mod]

/-- Settles O22: at most `CAPACITY` ticks write each slot once, so slot `j` holds the `j`-th level.
-/
theorem drainsAreFirstInFirstOut : Obligations.DrainsAreFirstInFirstOut := by
  intro s ds ho hh he hle
  obtain ⟨t, hticks, htail, hcount, hslots⟩ := overrunWrapsSilently s ds ho hh he
  obtain ⟨t', hticks', hcfg, -, -, hhead, -⟩ := execAll_fullTicks ds ho hh
  cases hticks.symm.trans hticks'
  have htlt : t.tail < t.cfg.capacity := by
    rw [htail, hcfg, he]
    exact hh
  obtain ⟨u, vs, hdrains, hlen, hcfg', hhead', -, htail', hvs⟩ :=
    execResults_drains ds.length htlt
  have hresults : vs = ds.map Bool.toNat := by
    refine List.ext_getElem? fun j => ?_
    rcases Nat.lt_or_ge j ds.length with hj | hj
    · rw [List.getElem?_map, List.getElem?_eq_getElem hj]
      refine hvs j ds[j] hj ?_
      rw [htail, hcfg, hslots j (by omega) hj, Nat.div_eq_of_lt (by omega), Nat.mul_zero,
        Nat.add_zero, List.getElem?_eq_getElem hj]
    · rw [List.getElem?_eq_none (by omega), List.getElem?_eq_none (by simpa using hj)]
  refine ⟨t, u, hticks, hresults ▸ hdrains, fun hlt => ?_, availableCount_eq_zero ?_⟩
  · rw [hcount, Nat.mod_eq_of_lt hlt]
  · rw [hhead', htail', hhead, hcfg, htail, he]

/-! ### A drain across a tick (20_memory.md R81) -/

/-- A drain, with what it reads given. -/
theorem exec_drain_of_read {s : State} {x : Bit × Nat} (ht : s.tail < s.cfg.capacity)
    (hread : memRead s s.tail = x) :
    exec .drain s = .next (({ s with
      tail := nextPointer s.cfg s.tail, draws := x.2 }).returning (zextBit x.1)) := by
  rw [exec_drain ht, hread]

theorem execAll_three {i j k : Instr} {s t u v : State} (hi : exec i s = .next t)
    (hj : exec j t = .next u) (hk : exec k u = .next v) : execAll [i, j, k] s = .next v := by
  rw [execAll_cons, hi, andThen_next, execAll_cons, hj, andThen_next, execAll_cons, hk,
    andThen_next, execAll_nil]

/-- Settles O27: T1 writes another slot than the drain reads, and T2 reads none. -/
theorem drainCommutesWithTick : Obligations.DrainCommutesWithTick := by
  intro s d ho hh ht hne
  have hread (p : Nat) (o : Bit) : memRead { s with
      mem := writeSlot s.mem s.head d, head := p, tickOpen := o, ticked := true } s.tail =
        memRead s s.tail :=
    memRead_congr ((readSlot_writeSlot _ _ _ _).trans (if_neg hne)) rfl
  exact ⟨_,
    execAll_three (exec_tick_of_closed d ho hh) (exec_drain_of_read ht (hread s.head true))
      (exec_tick_of_open d rfl),
    execAll_three (exec_drain ht) (exec_tick_of_closed d ho hh) (exec_tick_of_open d rfl),
    execAll_three (exec_tick_of_closed d ho hh) (exec_tick_of_open d rfl)
      (exec_drain_of_read ht (hread (nextPointer s.cfg s.head) false))⟩

end Sys2Proof.Machine

/-!
PROOFS. Ticks, drains and other operations in any order (40_sample_buffer.md R125,
70_reset_and_hazards.md R244, R246). The buffer is read as the list of what its next drains return;
a tick's two sub-steps only move a level along that list, a drain takes its first entry, and every
other operation leaves it alone.
-/

namespace Sys2Proof.Machine

/-! ### Counting along a list of operations -/

/-- The operations that are neither drains nor sub-steps of a tick. -/
def Bystander (i : Instr) : Prop := (∀ d, i ≠ .tick d) ∧ i ≠ .drain

theorem drains_cons_drain (is : List Instr) : drains (.drain :: is) = drains is + 1 :=
  List.count_cons_self

theorem drains_cons_of_ne {i : Instr} (hi : i ≠ .drain) (is : List Instr) :
    drains (i :: is) = drains is := List.count_cons_of_ne hi

theorem drains_cons_tick (d : Bit) (is : List Instr) : drains (.tick d :: is) = drains is :=
  drains_cons_of_ne (i := .tick d) nofun is

theorem ticksDone_cons_drain (o : Bit) (is : List Instr) :
    ticksDone o (.drain :: is) = ticksDone o is := rfl

theorem ticksDone_cons_of_ne {i : Instr} (hi : ∀ d, i ≠ .tick d) (o : Bit) (is : List Instr) :
    ticksDone o (i :: is) = ticksDone o is := by
  cases i with
  | tick d => exact absurd rfl (hi d)
  | setsrc | avail | drain | sbReset | sample | dmReset | bits | msgb => rfl

theorem tickLevels_cons_of_ne {i : Instr} (hi : ∀ d, i ≠ .tick d) (o : Bit) (is : List Instr) :
    tickLevels o (i :: is) = tickLevels o is := by
  cases i with
  | tick d => exact absurd rfl (hi d)
  | setsrc | avail | drain | sbReset | sample | dmReset | bits | msgb => rfl

theorem drains_take_le (is : List Instr) (k : Nat) : drains (is.take k) ≤ drains is :=
  List.Sublist.count_le Instr.drain (List.take_sublist k is)

/-- Each completed tick but the one open at the start stored a level of the list. -/
theorem ticksDone_le_tickLevels (is : List Instr) (o : Bit) :
    ticksDone o is ≤ (tickLevels o is).length + if o then 1 else 0 := by
  induction is generalizing o with
  | nil => exact Nat.zero_le _
  | cons i is ih =>
    by_cases hi : ∃ d, i = .tick d
    · obtain ⟨d, rfl⟩ := hi
      cases o with
      | true =>
        have hrest := ih false
        simp only [ticksDone, tickLevels, Bool.not_true, Bool.false_eq_true, if_true, if_false] at *
        omega
      | false =>
        have hrest := ih true
        simp only [ticksDone, tickLevels, Bool.not_false, Bool.false_eq_true, if_true, if_false,
          List.length_cons] at *
        omega
    · have hne := not_exists.1 hi
      rw [ticksDone_cons_of_ne hne, tickLevels_cons_of_ne hne]
      exact ih o

theorem drainResults_cons_drain {is : List Instr} {s t u : State} {vs : List Nat}
    (hx : exec .drain s = .next t) (hrun : drainResults is t = some (u, vs)) :
    drainResults (.drain :: is) s = some (u, t.result :: vs) := by
  rw [drainResults_cons_of_next is hx, hrun]
  rfl

theorem drainResults_cons_of_ne {i : Instr} {is : List Instr} {s t u : State} {vs : List Nat}
    (hi : i ≠ .drain) (hx : exec i s = .next t) (hrun : drainResults is t = some (u, vs)) :
    drainResults (i :: is) s = some (u, vs) := by
  rw [drainResults_cons_of_next is hx, hrun]
  exact congrArg some (congrArg (Prod.mk u) (if_neg hi))

/-- With `a` samples counted, no beginning of the operations drains more than was counted and
completed, and never `CAPACITY` samples are unread. -/
def Paced (c : Cfg) (a : Nat) (o : Bit) (is : List Instr) : Prop :=
  ∀ k, drains (is.take k) ≤ a + ticksDone o (is.take k) ∧
    a + ticksDone o (is.take k) - drains (is.take k) < c.capacity

section
variable {c : Cfg} {a : Nat} {is : List Instr}

theorem Paced.drain {o : Bit} (h : Paced c a o (.drain :: is)) : 1 ≤ a ∧ Paced c (a - 1) o is := by
  have hone := (h 1).1
  rw [List.take_succ_cons, List.take_zero, drains_cons_drain] at hone
  have hpos : 1 ≤ a := Nat.le_trans (Nat.le_add_left _ _) hone
  refine ⟨hpos, fun k => ?_⟩
  obtain ⟨hle, hlt⟩ := h (k + 1)
  rw [List.take_succ_cons, drains_cons_drain, ticksDone_cons_drain] at hle hlt
  omega

theorem Paced.tick_open {d : Bit} (h : Paced c a true (.tick d :: is)) :
    a + 1 < c.capacity ∧ Paced c (a + 1) false is := by
  have hrest (k : Nat) := h (k + 1)
  simp only [List.take_succ_cons, drains_cons_tick, ticksDone, if_true,
    Bool.not_true, ← Nat.add_assoc] at hrest
  exact ⟨(hrest 0).2, hrest⟩

theorem Paced.tick_closed {d : Bit} (h : Paced c a false (.tick d :: is)) : Paced c a true is := by
  have hrest (k : Nat) := h (k + 1)
  simp only [List.take_succ_cons, drains_cons_tick, ticksDone,
    Bool.false_eq_true, if_false, Bool.not_false, Nat.zero_add] at hrest
  exact hrest

theorem Paced.bystander {o : Bit} {i : Instr} (hi : Bystander i) (h : Paced c a o (i :: is)) :
    Paced c a o is := by
  intro k
  have hrest := h (k + 1)
  rwa [List.take_succ_cons, drains_cons_of_ne hi.2, ticksDone_cons_of_ne hi.1] at hrest

/-- Drains of counted samples only, and no overrun on top of the count (R244, R246). -/
theorem paced_of_counted {o : Bit} (hd : drains is ≤ a) (ht : a + ticksDone o is < c.capacity) :
    Paced c a o is := by
  intro k
  have hdk := drains_take_le is k
  have htk := ticksDone_take_le is o k
  omega

end

/-! ### What the next drains return -/

/-- The slots counted, from `tail` on. -/
def window (s : State) : List (Option Bit) :=
  (List.range (availableCount s)).map fun j => readSlot s.mem ((s.tail + j) % s.cfg.capacity)

/-- What the ticks of the operations publish: the slot of the tick that is open, then the levels. -/
def publishing (s : State) (is : List Instr) : List (Option Bit) :=
  (if s.tickOpen then [readSlot s.mem s.head] else []) ++ (tickLevels s.tickOpen is).map some

/-- What drains among the operations return, in order: the slots counted, then those published. -/
def queued (s : State) (is : List Instr) : List (Option Bit) := window s ++ publishing s is

theorem window_length (s : State) : (window s).length = availableCount s := by simp [window]

/-- The indices in their spaces. -/
structure Ready (s : State) : Prop where
  headLt : s.head < s.cfg.capacity
  tailLt : s.tail < s.cfg.capacity
  bitLe : s.bitIndex ≤ 128

/-- The two states have the same buffer. -/
structure SameBuffer (s t : State) : Prop where
  cfg : t.cfg = s.cfg
  head : t.head = s.head
  tail : t.tail = s.tail
  mem : t.mem = s.mem
  tickOpen : t.tickOpen = s.tickOpen

theorem SameBuffer.availableCount_eq {s t : State} (h : SameBuffer s t) :
    availableCount t = availableCount s := by
  rw [availableCount, availableCount, h.cfg, h.head, h.tail]

theorem SameBuffer.queued_eq {s t : State} (h : SameBuffer s t) (is : List Instr) :
    queued t is = queued s is := by
  rw [queued, queued, window, window, publishing, publishing, h.availableCount_eq, h.cfg, h.head,
    h.tail, h.mem, h.tickOpen]

/-! ### What each operation does to the queue -/

/-- No operation takes `bit_index` past 128. -/
theorem exec_bitIndex_le {i : Instr} {s t : State} (hb : s.bitIndex ≤ 128)
    (hx : exec i s = .next t) : t.bitIndex ≤ 128 := by
  by_cases hsample : ∃ b, i = .sample b
  · obtain ⟨b, rfl⟩ := hsample
    rw [exec_sample_eq b hb] at hx
    cases hx
    exact demodNext_bitIndex_le s.cfg b (r := s.demod) hb
  by_cases hreset : i = .dmReset
  · subst hreset
    cases hx
    exact Nat.zero_le _
  obtain ⟨e, -⟩ := (demod_eq_iff s t).1 (exec_keeps_demod (not_exists.1 hsample) hreset hx)
  exact e.trans_le hb

section
variable {s : State} (hs : Ready s)
include hs

/-- An operation that is neither leaves the buffer alone. -/
theorem exec_bystander {i : Instr} (hi : Bystander i) (hk : keepsQueue i = true) :
    ∃ t, exec i s = .next t ∧ Ready t ∧ SameBuffer s t := by
  have hsrc (id : LineId) : i ≠ .setsrc id := by
    rintro rfl
    cases hk
  have hres : i ≠ .sbReset := by
    rintro rfl
    cases hk
  obtain ⟨t, hx⟩ := exec_completes hs.headLt hs.tailLt hs.bitLe (Or.inl hsrc)
  obtain ⟨⟨hcfg, -⟩, hmem, hhead, htail, -⟩ := exec_frame hx
  have hsame : SameBuffer s t :=
    ⟨hcfg, hhead hi.1 hres, htail hi.2 hres, (hmem hi.1).1, (hmem hi.1).2⟩
  refine ⟨t, hx, ⟨?_, ?_, exec_bitIndex_le hs.bitLe hx⟩, hsame⟩
  · rw [hsame.head, hcfg]
    exact hs.headLt
  · rw [hsame.tail, hcfg]
    exact hs.tailLt

/-- A counted offset does not name the slot `head`. -/
theorem slot_ne_head {j : Nat} (hj : j < availableCount s) :
    s.head ≠ (s.tail + j) % s.cfg.capacity := by
  intro e
  have hcap := availableCount_lt s
  have := (availableCount_eq_iff hs.headLt hs.tailLt (hj.trans hcap)).2 e.symm
  omega

/-- T1 stores the level that it will publish, outside the counted slots. -/
theorem exec_tick_queue_of_closed (d : Bit) (ho : s.tickOpen = false) :
    ∃ t, exec (.tick d) s = .next t ∧ Ready t ∧ t.cfg = s.cfg ∧ t.tickOpen = true ∧
      availableCount t = availableCount s ∧
      ∀ is, queued t is = queued s (.tick d :: is) := by
  refine ⟨_, exec_tick_of_closed d ho hs.headLt, ⟨hs.headLt, hs.tailLt, hs.bitLe⟩, rfl, rfl, rfl,
    fun is => ?_⟩
  have hwindow : window { s with
      mem := writeSlot s.mem s.head d, tickOpen := true, ticked := true } = window s :=
    List.map_congr_left fun j hj => (readSlot_writeSlot _ _ _ _).trans
      (if_neg (slot_ne_head hs (List.mem_range.1 hj)))
  rw [queued, queued, hwindow]
  simp [publishing, tickLevels, ho, readSlot_writeSlot]

/-- T2 moves the slot `head` to the end of the window. -/
theorem exec_tick_queue_of_open (d : Bit) (ho : s.tickOpen = true)
    (hroom : availableCount s + 1 < s.cfg.capacity) :
    ∃ t, exec (.tick d) s = .next t ∧ Ready t ∧ t.cfg = s.cfg ∧ t.tickOpen = false ∧
      availableCount t = availableCount s + 1 ∧
      ∀ is, queued t is = queued s (.tick d :: is) := by
  have hcount := (availableCount_of_head_next (s := s)
    (t := { s with head := nextPointer s.cfg s.head, tickOpen := false })
    hs.headLt hs.tailLt rfl rfl rfl).trans (Nat.mod_eq_of_lt hroom)
  refine ⟨_, exec_tick_of_open d ho, ⟨nextPointer_lt s.cfg s.head, hs.tailLt, hs.bitLe⟩, rfl, rfl,
    hcount, fun is => ?_⟩
  have hwindow : window { s with head := nextPointer s.cfg s.head, tickOpen := false } =
      window s ++ [readSlot s.mem s.head] := by
    rw [window, hcount, List.range_succ, List.map_append, List.map_singleton,
      tail_add_availableCount hs.headLt hs.tailLt, window]
  rw [queued, queued, hwindow]
  simp [publishing, tickLevels, ho]

/-- A drain of a counted sample takes the first entry. -/
theorem exec_drain_queue (hpos : 1 ≤ availableCount s) :
    ∃ t x, exec .drain s = .next t ∧ Ready t ∧ t.cfg = s.cfg ∧ t.tickOpen = s.tickOpen ∧
      availableCount t = availableCount s - 1 ∧ (∀ b, x = some b → t.result = b.toNat) ∧
      ∀ is, queued s (.drain :: is) = x :: queued t is := by
  have hne : s.head ≠ s.tail := fun e => by
    have := availableCount_eq_zero e
    omega
  have hcount := availableCount_of_tail_next (s := s)
    (t := ({ s with tail := nextPointer s.cfg s.tail, draws := (memRead s s.tail).2 }).returning
      (zextBit (memRead s s.tail).1)) hs.headLt hs.tailLt rfl rfl rfl hne
  refine ⟨_, readSlot s.mem s.tail, exec_drain hs.tailLt,
    ⟨hs.headLt, nextPointer_lt s.cfg s.tail, hs.bitLe⟩, rfl, rfl, hcount, fun b hslot => ?_,
    fun is => ?_⟩
  · rw [State.returning_result, memRead_of_some hslot, zextBit]
  · obtain ⟨n, hn⟩ : ∃ n, availableCount s = n + 1 := ⟨availableCount s - 1, by omega⟩
    rw [queued, queued, window, window, hcount, hn, Nat.add_sub_cancel, List.range_succ_eq_map,
      List.map_cons, List.map_map, Nat.add_zero, Nat.mod_eq_of_lt hs.tailLt, List.cons_append]
    congr 2
    exact List.map_congr_left fun j _ =>
      congrArg (readSlot s.mem) (nextPointer_add_mod s.cfg s.tail j).symm

end

/-- Every paced list of operations completes; its drains return the queue's entries, where they are
known, and the count follows the ticks and the drains. -/
theorem drainResults_queue (is : List Instr) {s : State} (hs : Ready s)
    (hkeep : ∀ i ∈ is, keepsQueue i = true)
    (hpaced : Paced s.cfg (availableCount s) s.tickOpen is) :
    ∃ t vs, drainResults is s = some (t, vs) ∧
      availableCount t = availableCount s + ticksDone s.tickOpen is - drains is ∧
      ∀ j b, j < drains is → (queued s is)[j]? = some (some b) → vs[j]? = some b.toNat := by
  induction is generalizing s with
  | nil => exact ⟨s, [], rfl, rfl, nofun⟩
  | cons i is ih =>
    obtain ⟨hki, hkis⟩ := List.forall_mem_cons.1 hkeep
    by_cases htick : ∃ d, i = .tick d
    · obtain ⟨d, rfl⟩ := htick
      cases ho : s.tickOpen with
      | false =>
        rw [ho] at hpaced
        obtain ⟨t, hx, ht, hcfg, hopen, hcount, hqueue⟩ := exec_tick_queue_of_closed hs d ho
        obtain ⟨u, vs, hrun, hcount', hvs⟩ := ih ht hkis
          (by rw [hcfg, hcount, hopen]; exact hpaced.tick_closed)
        refine ⟨u, vs, drainResults_cons_of_ne nofun hx hrun, ?_, ?_⟩
        · rw [hcount', hcount, hopen, drains_cons_tick]
          simp [ticksDone]
        · rw [drains_cons_tick, ← hqueue]
          exact hvs
      | true =>
        rw [ho] at hpaced
        obtain ⟨hroom, hrest⟩ := hpaced.tick_open
        obtain ⟨t, hx, ht, hcfg, hopen, hcount, hqueue⟩ := exec_tick_queue_of_open hs d ho hroom
        obtain ⟨u, vs, hrun, hcount', hvs⟩ := ih ht hkis
          (by rw [hcfg, hcount, hopen]; exact hrest)
        refine ⟨u, vs, drainResults_cons_of_ne nofun hx hrun, ?_, ?_⟩
        · rw [hcount', hcount, hopen, drains_cons_tick]
          simp [ticksDone, Nat.add_assoc]
        · rw [drains_cons_tick, ← hqueue]
          exact hvs
    by_cases hdrain : i = .drain
    · subst hdrain
      obtain ⟨hpos, hrest⟩ := hpaced.drain
      obtain ⟨t, x, hx, ht, hcfg, hopen, hcount, hresult, hqueue⟩ := exec_drain_queue hs hpos
      obtain ⟨u, vs, hrun, hcount', hvs⟩ := ih ht hkis
        (by rw [hcfg, hcount, hopen]; exact hrest)
      refine ⟨u, t.result :: vs, drainResults_cons_drain hx hrun, ?_, ?_⟩
      · rw [hcount', hcount, hopen, drains_cons_drain, ticksDone_cons_drain]
        omega
      · intro j b hj hslot
        rw [drains_cons_drain] at hj
        rw [hqueue] at hslot
        cases j with
        | zero => exact congrArg some (hresult b (Option.some.inj hslot))
        | succ j => exact hvs j b (Nat.lt_of_succ_lt_succ hj) hslot
    · have hi : Bystander i := ⟨not_exists.1 htick, hdrain⟩
      obtain ⟨t, hx, ht, hsame⟩ := exec_bystander hs hi hki
      obtain ⟨u, vs, hrun, hcount, hvs⟩ := ih ht hkis
        (by rw [hsame.cfg, hsame.availableCount_eq, hsame.tickOpen]; exact hpaced.bystander hi)
      refine ⟨u, vs, drainResults_cons_of_ne hdrain hx hrun, ?_, ?_⟩
      · rw [hcount, hsame.availableCount_eq, hsame.tickOpen, drains_cons_of_ne hdrain,
          ticksDone_cons_of_ne hi.1]
      · rw [drains_cons_of_ne hdrain]
        rw [hsame.queued_eq] at hvs
        rw [queued, publishing, tickLevels_cons_of_ne hi.1]
        exact hvs

/-! ### The statements (R125, R244) -/

/-- Settles O60: from an empty buffer the queue is the list of the levels stored. -/
theorem interleavedDrainsAreFirstInFirstOut : Obligations.InterleavedDrainsAreFirstInFirstOut := by
  intro s ops ho hh he hb hkeep hpace
  have hempty : availableCount s = 0 := availableCount_eq_zero he.symm
  have hpaced : Paced s.cfg (availableCount s) s.tickOpen ops := by
    intro k
    rw [hempty, ho, Nat.zero_add]
    rcases Nat.le_total k ops.length with hk | hk
    · exact hpace k hk
    · rw [List.take_of_length_le hk]
      have hall := hpace ops.length le_rfl
      rw [List.take_length] at hall
      exact hall
  obtain ⟨t, vs, hrun, hcount, hvs⟩ := drainResults_queue ops ⟨hh, he ▸ hh, hb⟩ hkeep hpaced
  have hlen := (drainResults_eq_some hrun).2
  have hqueue : queued s ops = (tickLevels false ops).map some := by
    simp [queued, window, publishing, hempty, ho]
  have hdone : drains ops ≤ (tickLevels false ops).length := by
    have hall := (hpaced ops.length).1
    rw [List.take_length, hempty, ho, Nat.zero_add] at hall
    exact hall.trans (ticksDone_le_tickLevels ops false)
  have hresults : vs = ((tickLevels false ops).take (drains ops)).map Bool.toNat := by
    refine List.ext_getElem? fun j => ?_
    rcases Nat.lt_or_ge j (drains ops) with hj | hj
    · rw [List.getElem?_map, List.getElem?_take_of_lt hj,
        List.getElem?_eq_getElem (hj.trans_le hdone)]
      refine hvs j _ hj ?_
      rw [hqueue, List.getElem?_map, List.getElem?_eq_getElem (hj.trans_le hdone)]
      rfl
    · rw [List.getElem?_eq_none (by omega), List.getElem?_eq_none (by simp; omega)]
  refine ⟨t, hresults ▸ hrun, ?_⟩
  rw [hcount, hempty, ho, Nat.zero_add]

/-- Settles O26: the first clause by the run of drains; the second by the queue, whose first entries
are the slots counted, and for each drain by the operations before it. -/
theorem countedDrainsAreServed : Obligations.CountedDrainsAreServed := by
  refine ⟨fun s n hh ht hn => ?_, fun s ops hh ht hb hkeep hd hroom => ⟨?_, fun pre post he => ?_⟩⟩
  · obtain ⟨t, vs, hrun, hlen, hcfg, hhead, hmem, htail, -⟩ := execResults_drains n ht
    refine ⟨t, vs, hrun, hlen, hhead, hmem, ?_⟩
    have hlt := availableCount_lt s
    have hpos := s.cfg.capacity_pos
    rw [availableCount_eq_iff (by rw [hhead, hcfg]; exact hh)
      (by rw [htail, hcfg]; exact Nat.mod_lt _ hpos) (by rw [hcfg]; omega), hcfg, htail, hhead,
      Nat.mod_add_mod, Nat.add_assoc, Nat.add_sub_cancel' hn, tail_add_availableCount hh ht]
  · obtain ⟨t, vs, hrun, hcount, hvs⟩ :=
      drainResults_queue ops ⟨hh, ht, hb⟩ hkeep (paced_of_counted hd hroom)
    refine ⟨t, vs, hrun, (drainResults_eq_some hrun).2, hcount, fun j b hj hslot => hvs j b hj ?_⟩
    have hjlt : j < availableCount s := hj.trans_le hd
    rw [queued, List.getElem?_append_left (by rwa [window_length]), window, List.getElem?_map,
      List.getElem?_range hjlt, Option.map_some, hslot]
  · subst he
    have hdpre : drains pre + 1 ≤ drains (pre ++ .drain :: post) := by
      simp only [drains, List.count_append, List.count_cons_self]
      omega
    have htpre := ticksDone_take_le (pre ++ .drain :: post) s.tickOpen pre.length
    rw [List.take_left] at htpre
    unfold NoOverrun at hroom
    obtain ⟨u, vs, hrun, hcount, -⟩ := drainResults_queue pre ⟨hh, ht, hb⟩
      (fun i hi => hkeep i (List.mem_append_left _ hi))
      (paced_of_counted (by omega) (by omega))
    refine ⟨u, (drainResults_eq_some hrun).1, fun hmeet => ?_⟩
    have hzero := availableCount_eq_zero hmeet
    omega

end Sys2Proof.Machine
